-- ==== Sys2Proof/Word.lean ====
section
/-! DEFINITION. The bit widths of the core and the register index (spec/00_scope.md R7, R9, R10). -/

namespace Sys2Proof

/-- A byte: a general register, a timer, one cell of memory (R18, R31, R33). -/
abbrev Byte := BitVec 8

/-- A 16-bit quantity: I, pc, a return-stack entry, an instruction word (R21, R22, R26, R70). -/
abbrev Word := BitVec 16

/-- The 12-bit address field `nnn` of an instruction word (R71). -/
abbrev Address := BitVec 12

/-- A 4-bit field of an instruction word (R71). -/
abbrev Nibble := BitVec 4

/-- The number of a general register V0 to VF, or of a key 0x0 to 0xF (R18, R37). -/
abbrev Reg := Fin 16

/-- VF, the register that doubles as the flags output (R20). -/
abbrev VF : Reg := 15

end Sys2Proof
end

