-- ==== Sys2Proof/Syntax.lean ====
section
/-! DEFINITION. The 34 instructions of spec/opcode_table.json, one constructor per row, in the table's order.
Operands are the table's fields: `x`, `y` register indices, `nn` a byte, `nnn` an address, `n` a height (R71). -/

namespace Sys2Proof

inductive Instr where
  /-- `00E0` CLS (R128). -/
  | cls
  /-- `00EE` RET (R97). -/
  | ret
  /-- `1nnn` JP nnn (R98). -/
  | jp (nnn : Address)
  /-- `2nnn` CALL nnn (R99). -/
  | call (nnn : Address)
  /-- `3xnn` SE Vx, nn (R100). -/
  | seByte (x : Reg) (nn : Byte)
  /-- `4xnn` SNE Vx, nn (R101). -/
  | sneByte (x : Reg) (nn : Byte)
  /-- `5xy0` SE Vx, Vy (R102). -/
  | seReg (x y : Reg)
  /-- `6xnn` LD Vx, nn (R107). -/
  | ldByte (x : Reg) (nn : Byte)
  /-- `7xnn` ADD Vx, nn (R108). -/
  | addByte (x : Reg) (nn : Byte)
  /-- `8xy0` LD Vx, Vy (R109). -/
  | ldReg (x y : Reg)
  /-- `8xy1` OR Vx, Vy (R110). -/
  | orReg (x y : Reg)
  /-- `8xy2` AND Vx, Vy (R111). -/
  | andReg (x y : Reg)
  /-- `8xy3` XOR Vx, Vy (R112). -/
  | xorReg (x y : Reg)
  /-- `8xy4` ADD Vx, Vy (R113). -/
  | addReg (x y : Reg)
  /-- `8xy5` SUB Vx, Vy (R114). -/
  | subReg (x y : Reg)
  /-- `8xy6` SHR Vx, Vy (R115). -/
  | shrReg (x y : Reg)
  /-- `8xy7` SUBN Vx, Vy (R116). -/
  | subnReg (x y : Reg)
  /-- `8xyE` SHL Vx, Vy (R117). -/
  | shlReg (x y : Reg)
  /-- `9xy0` SNE Vx, Vy (R103). -/
  | sneReg (x y : Reg)
  /-- `Annn` LD I, nnn (R121). -/
  | ldI (nnn : Address)
  /-- `Bnnn` JP V0, nnn (R104): `x` is the top nibble of `nnn` (R73), which `WellFormed` checks. -/
  | jpV0 (x : Reg) (nnn : Address)
  /-- `Cxnn` RND Vx, nn (R118). -/
  | rnd (x : Reg) (nn : Byte)
  /-- `Dxyn` DRW Vx, Vy, n (R129). -/
  | drw (x y : Reg) (n : Nibble)
  /-- `Ex9E` SKP Vx (R134). -/
  | skp (x : Reg)
  /-- `ExA1` SKNP Vx (R135). -/
  | sknp (x : Reg)
  /-- `Fx07` LD Vx, DT (R137). -/
  | ldVxDT (x : Reg)
  /-- `Fx0A` LD Vx, K (R138). -/
  | ldVxK (x : Reg)
  /-- `Fx15` LD DT, Vx (R139). -/
  | ldDTVx (x : Reg)
  /-- `Fx18` LD ST, Vx (R140). -/
  | ldSTVx (x : Reg)
  /-- `Fx1E` ADD I, Vx (R122). -/
  | addI (x : Reg)
  /-- `Fx29` LD F, Vx (R123). -/
  | ldF (x : Reg)
  /-- `Fx33` LD B, Vx (R124). -/
  | ldB (x : Reg)
  /-- `Fx55` LD [I], Vx (R125). -/
  | ldIVx (x : Reg)
  /-- `Fx65` LD Vx, [I] (R126). -/
  | ldVxI (x : Reg)
  deriving DecidableEq, Repr

end Sys2Proof
end

