-- ==== Sys2Proof/WellFormed.lean ====
section
/-! DEFINITION. Which terms of `Instr` stand for an instruction. The operand types bound every field, so one check is
left: in `Bnnn` the register index and the top nibble of the address are the same four bits (spec/30_encoding.md R73). -/

namespace Sys2Proof

/-- The check: `Bnnn`'s `x` is `nnn[11:8]` (R73). Every other term is well formed by its type. -/
def Instr.wellFormed : Instr → Bool
  | .jpV0 x nnn => x.val == nnn.toNat / 256
  | .cls | .ret | .jp _ | .call _ | .seByte _ _ | .sneByte _ _ | .seReg _ _ | .ldByte _ _ | .addByte _ _
  | .ldReg _ _ | .orReg _ _ | .andReg _ _ | .xorReg _ _ | .addReg _ _ | .subReg _ _ | .shrReg _ _
  | .subnReg _ _ | .shlReg _ _ | .sneReg _ _ | .ldI _ | .rnd _ _ | .drw _ _ _ | .skp _ | .sknp _
  | .ldVxDT _ | .ldVxK _ | .ldDTVx _ | .ldSTVx _ | .addI _ | .ldF _ | .ldB _ | .ldIVx _ | .ldVxI _ => true

end Sys2Proof
end

