-- ==== Sys2Proof/Decode.lean ====
section
/-! DEFINITION. Decoding an instruction word, and encoding an instruction (spec/30_encoding.md R70 to R85).
The bit patterns are those of R79 and opcode_table.json (log entry 6). -/

namespace Sys2Proof

/-! ## The fields of an instruction word (R71) -/

/-- `h = op[15:12]`, the header. -/
def header (op : Word) : Nibble := op.extractLsb' 12 4

/-- The nibble `op[11:8]` that holds `x`. -/
def nibbleX (op : Word) : Nibble := op.extractLsb' 8 4

/-- The nibble `op[7:4]` that holds `y`. -/
def nibbleY (op : Word) : Nibble := op.extractLsb' 4 4

/-- `n = op[3:0]`. -/
def fieldN (op : Word) : Nibble := op.extractLsb' 0 4

/-- `nn = op[7:0]`. -/
def fieldNN (op : Word) : Byte := op.extractLsb' 0 8

/-- `nnn = op[11:0]`. -/
def fieldNNN (op : Word) : Address := op.extractLsb' 0 12

/-- The general register a 4-bit field selects (R72). -/
def regOf (b : Nibble) : Reg := ⟨b.toNat, b.isLt⟩

/-- The 4-bit field that selects a general register. -/
def nibbleOf (r : Reg) : Nibble := BitVec.ofNat 4 r.val

/-- The operand `x` of a word. -/
def fieldX (op : Word) : Reg := regOf (nibbleX op)

/-- The operand `y` of a word. -/
def fieldY (op : Word) : Reg := regOf (nibbleY op)

/-- The instruction word two bytes of memory form: the byte at the lower address is bits 15:8 (R55, R77). -/
def wordOfBytes (hi lo : Byte) : Word := hi ++ lo

/-- Bits 15:8 of a word, the byte at the lower address (R55). -/
def highByte (op : Word) : Byte := op.extractLsb' 8 8

/-- Bits 7:0 of a word, the byte at the higher address (R55). -/
def lowByte (op : Word) : Byte := op.extractLsb' 0 8

/-! ## Decode (R74, R75, R79) -/

/-- Why a word is no instruction: it has no handler (R80). -/
inductive DecodeError where
  /-- No row of R79 matches the word. -/
  | unknown (op : Word)
  deriving DecidableEq, Repr

/-- Family 0x0: the whole field `nnn` selects (R75, R87). -/
def decodeSystem (op : Word) : Except DecodeError Instr :=
  if fieldNNN op = 0x0E0 then .ok .cls
  else if fieldNNN op = 0x0EE then .ok .ret
  else .error (.unknown op)

/-- Family 0x8: the low nibble selects (R75). -/
def decodeAlu (op : Word) : Except DecodeError Instr :=
  if fieldN op = 0x0 then .ok (.ldReg (fieldX op) (fieldY op))
  else if fieldN op = 0x1 then .ok (.orReg (fieldX op) (fieldY op))
  else if fieldN op = 0x2 then .ok (.andReg (fieldX op) (fieldY op))
  else if fieldN op = 0x3 then .ok (.xorReg (fieldX op) (fieldY op))
  else if fieldN op = 0x4 then .ok (.addReg (fieldX op) (fieldY op))
  else if fieldN op = 0x5 then .ok (.subReg (fieldX op) (fieldY op))
  else if fieldN op = 0x6 then .ok (.shrReg (fieldX op) (fieldY op))
  else if fieldN op = 0x7 then .ok (.subnReg (fieldX op) (fieldY op))
  else if fieldN op = 0xE then .ok (.shlReg (fieldX op) (fieldY op))
  else .error (.unknown op)

/-- Family 0xE: the low byte selects (R75). -/
def decodeKeys (op : Word) : Except DecodeError Instr :=
  if fieldNN op = 0x9E then .ok (.skp (fieldX op))
  else if fieldNN op = 0xA1 then .ok (.sknp (fieldX op))
  else .error (.unknown op)

/-- Family 0xF: the low byte selects (R75). -/
def decodeMisc (op : Word) : Except DecodeError Instr :=
  if fieldNN op = 0x07 then .ok (.ldVxDT (fieldX op))
  else if fieldNN op = 0x0A then .ok (.ldVxK (fieldX op))
  else if fieldNN op = 0x15 then .ok (.ldDTVx (fieldX op))
  else if fieldNN op = 0x18 then .ok (.ldSTVx (fieldX op))
  else if fieldNN op = 0x1E then .ok (.addI (fieldX op))
  else if fieldNN op = 0x29 then .ok (.ldF (fieldX op))
  else if fieldNN op = 0x33 then .ok (.ldB (fieldX op))
  else if fieldNN op = 0x55 then .ok (.ldIVx (fieldX op))
  else if fieldNN op = 0x65 then .ok (.ldVxI (fieldX op))
  else .error (.unknown op)

/-- `Decode(op)` (R79), by header and sub-selector (R74): the word alone decides (R82). -/
def decode (op : Word) : Except DecodeError Instr :=
  if header op = 0x0 then decodeSystem op
  else if header op = 0x1 then .ok (.jp (fieldNNN op))
  else if header op = 0x2 then .ok (.call (fieldNNN op))
  else if header op = 0x3 then .ok (.seByte (fieldX op) (fieldNN op))
  else if header op = 0x4 then .ok (.sneByte (fieldX op) (fieldNN op))
  else if header op = 0x5 then
    if fieldN op = 0x0 then .ok (.seReg (fieldX op) (fieldY op)) else .error (.unknown op)
  else if header op = 0x6 then .ok (.ldByte (fieldX op) (fieldNN op))
  else if header op = 0x7 then .ok (.addByte (fieldX op) (fieldNN op))
  else if header op = 0x8 then decodeAlu op
  else if header op = 0x9 then
    if fieldN op = 0x0 then .ok (.sneReg (fieldX op) (fieldY op)) else .error (.unknown op)
  else if header op = 0xA then .ok (.ldI (fieldNNN op))
  else if header op = 0xB then .ok (.jpV0 (fieldX op) (fieldNNN op))
  else if header op = 0xC then .ok (.rnd (fieldX op) (fieldNN op))
  else if header op = 0xD then .ok (.drw (fieldX op) (fieldY op) (fieldN op))
  else if header op = 0xE then decodeKeys op
  else decodeMisc op

/-- Decode the two bytes of an instruction as memory holds them, lower address first: total on any bytes (R70, R79). -/
def decodeBytes (hi lo : Byte) : Except DecodeError Instr := decode (wordOfBytes hi lo)

/-! ## Encode (R85) -/

/-- A word of format `addr`: header and `nnn` (R71). -/
def packAddr (h : Nibble) (nnn : Address) : Word := h ++ nnn

/-- A word of formats `x_byte` and `x_sel`: header, `x` and the low byte (R71). -/
def packByte (h : Nibble) (x : Reg) (nn : Byte) : Word := h ++ nibbleOf x ++ nn

/-- A word of formats `x_y_sel` and `x_y_n`: header, `x`, `y` and the low nibble (R71). -/
def packRegs (h : Nibble) (x y : Reg) (n : Nibble) : Word := h ++ nibbleOf x ++ nibbleOf y ++ n

/-- The word of a well-formed instruction: the fields of R71 filled into its row of R79 (R85). -/
def encode : Instr → Word
  | .cls => packAddr 0x0 0x0E0
  | .ret => packAddr 0x0 0x0EE
  | .jp nnn => packAddr 0x1 nnn
  | .call nnn => packAddr 0x2 nnn
  | .seByte x nn => packByte 0x3 x nn
  | .sneByte x nn => packByte 0x4 x nn
  | .seReg x y => packRegs 0x5 x y 0x0
  | .ldByte x nn => packByte 0x6 x nn
  | .addByte x nn => packByte 0x7 x nn
  | .ldReg x y => packRegs 0x8 x y 0x0
  | .orReg x y => packRegs 0x8 x y 0x1
  | .andReg x y => packRegs 0x8 x y 0x2
  | .xorReg x y => packRegs 0x8 x y 0x3
  | .addReg x y => packRegs 0x8 x y 0x4
  | .subReg x y => packRegs 0x8 x y 0x5
  | .shrReg x y => packRegs 0x8 x y 0x6
  | .subnReg x y => packRegs 0x8 x y 0x7
  | .shlReg x y => packRegs 0x8 x y 0xE
  | .sneReg x y => packRegs 0x9 x y 0x0
  | .ldI nnn => packAddr 0xA nnn
  | .jpV0 _ nnn => packAddr 0xB nnn
  | .rnd x nn => packByte 0xC x nn
  | .drw x y n => packRegs 0xD x y n
  | .skp x => packByte 0xE x 0x9E
  | .sknp x => packByte 0xE x 0xA1
  | .ldVxDT x => packByte 0xF x 0x07
  | .ldVxK x => packByte 0xF x 0x0A
  | .ldDTVx x => packByte 0xF x 0x15
  | .ldSTVx x => packByte 0xF x 0x18
  | .addI x => packByte 0xF x 0x1E
  | .ldF x => packByte 0xF x 0x29
  | .ldB x => packByte 0xF x 0x33
  | .ldIVx x => packByte 0xF x 0x55
  | .ldVxI x => packByte 0xF x 0x65

/-! ## The table of R79, row by row, beside the decoder -/

/-- One row of the table: a word is the row's instruction iff `op &&& mask = match` (R79). -/
structure OpcodeRow where
  pattern : Word
  mask    : Word
  deriving DecidableEq, Repr

/-- Whether a word matches a row (R79). -/
def OpcodeRow.accepts (r : OpcodeRow) (op : Word) : Bool := op &&& r.mask == r.pattern

/-- The row of R79 an instruction belongs to. -/
def Instr.row : Instr → OpcodeRow
  | .cls => ⟨0x00E0, 0xFFFF⟩
  | .ret => ⟨0x00EE, 0xFFFF⟩
  | .jp _ => ⟨0x1000, 0xF000⟩
  | .call _ => ⟨0x2000, 0xF000⟩
  | .seByte _ _ => ⟨0x3000, 0xF000⟩
  | .sneByte _ _ => ⟨0x4000, 0xF000⟩
  | .seReg _ _ => ⟨0x5000, 0xF00F⟩
  | .ldByte _ _ => ⟨0x6000, 0xF000⟩
  | .addByte _ _ => ⟨0x7000, 0xF000⟩
  | .ldReg _ _ => ⟨0x8000, 0xF00F⟩
  | .orReg _ _ => ⟨0x8001, 0xF00F⟩
  | .andReg _ _ => ⟨0x8002, 0xF00F⟩
  | .xorReg _ _ => ⟨0x8003, 0xF00F⟩
  | .addReg _ _ => ⟨0x8004, 0xF00F⟩
  | .subReg _ _ => ⟨0x8005, 0xF00F⟩
  | .shrReg _ _ => ⟨0x8006, 0xF00F⟩
  | .subnReg _ _ => ⟨0x8007, 0xF00F⟩
  | .shlReg _ _ => ⟨0x800E, 0xF00F⟩
  | .sneReg _ _ => ⟨0x9000, 0xF00F⟩
  | .ldI _ => ⟨0xA000, 0xF000⟩
  | .jpV0 _ _ => ⟨0xB000, 0xF000⟩
  | .rnd _ _ => ⟨0xC000, 0xF000⟩
  | .drw _ _ _ => ⟨0xD000, 0xF000⟩
  | .skp _ => ⟨0xE09E, 0xF0FF⟩
  | .sknp _ => ⟨0xE0A1, 0xF0FF⟩
  | .ldVxDT _ => ⟨0xF007, 0xF0FF⟩
  | .ldVxK _ => ⟨0xF00A, 0xF0FF⟩
  | .ldDTVx _ => ⟨0xF015, 0xF0FF⟩
  | .ldSTVx _ => ⟨0xF018, 0xF0FF⟩
  | .addI _ => ⟨0xF01E, 0xF0FF⟩
  | .ldF _ => ⟨0xF029, 0xF0FF⟩
  | .ldB _ => ⟨0xF033, 0xF0FF⟩
  | .ldIVx _ => ⟨0xF055, 0xF0FF⟩
  | .ldVxI _ => ⟨0xF065, 0xF0FF⟩

/-- The table of R79: families 0x0 to 0x7. -/
def opcodeRowsLow : List OpcodeRow :=
  [⟨0x00E0, 0xFFFF⟩, ⟨0x00EE, 0xFFFF⟩, ⟨0x1000, 0xF000⟩, ⟨0x2000, 0xF000⟩, ⟨0x3000, 0xF000⟩, ⟨0x4000, 0xF000⟩,
   ⟨0x5000, 0xF00F⟩, ⟨0x6000, 0xF000⟩, ⟨0x7000, 0xF000⟩]

/-- The table of R79: families 0x8 to 0xD. -/
def opcodeRowsMiddle : List OpcodeRow :=
  [⟨0x8000, 0xF00F⟩, ⟨0x8001, 0xF00F⟩, ⟨0x8002, 0xF00F⟩, ⟨0x8003, 0xF00F⟩, ⟨0x8004, 0xF00F⟩, ⟨0x8005, 0xF00F⟩,
   ⟨0x8006, 0xF00F⟩, ⟨0x8007, 0xF00F⟩, ⟨0x800E, 0xF00F⟩, ⟨0x9000, 0xF00F⟩, ⟨0xA000, 0xF000⟩, ⟨0xB000, 0xF000⟩,
   ⟨0xC000, 0xF000⟩, ⟨0xD000, 0xF000⟩]

/-- The table of R79: families 0xE and 0xF. -/
def opcodeRowsHigh : List OpcodeRow :=
  [⟨0xE09E, 0xF0FF⟩, ⟨0xE0A1, 0xF0FF⟩, ⟨0xF007, 0xF0FF⟩, ⟨0xF00A, 0xF0FF⟩, ⟨0xF015, 0xF0FF⟩, ⟨0xF018, 0xF0FF⟩,
   ⟨0xF01E, 0xF0FF⟩, ⟨0xF029, 0xF0FF⟩, ⟨0xF033, 0xF0FF⟩, ⟨0xF055, 0xF0FF⟩, ⟨0xF065, 0xF0FF⟩]

/-- The table of R79, whole: 34 rows. -/
def opcodeTable : List OpcodeRow := opcodeRowsLow ++ opcodeRowsMiddle ++ opcodeRowsHigh

/-! ## The host's question about the decoder -/

/-- The word of an instruction whose bits are `w`, of which the opcode table gives the low `nbits`: an instruction is
one 16-bit word, whose bits the table numbers from its least significant one (opcode_table.json). -/
def tableWord (nbits w : Nat) : Word := BitVec.ofNat 16 (w % 2 ^ nbits)

/-- The instruction the decoder reads from the bytes of `tableWord nbits w`, laid out as memory holds them. -/
def decodeTableWord (nbits w : Nat) : Option Instr :=
  match decodeBytes (highByte (tableWord nbits w)) (lowByte (tableWord nbits w)) with
  | .ok i => some i
  | .error _ => none

end Sys2Proof
end

