-- ==== Sys2Proof/Config.lean ====
section
/-! DEFINITION. What is fixed for the life of a Machine (spec/00_scope.md R6, R8; 70_reset_and_hazards.md R165),
and the free values of a step (R14). The values State.reset takes for the parameters are in Machine/Params.lean. -/

namespace Sys2Proof

/-- The quirk bundle `Q`: four Booleans supplied at construction (R6). -/
structure Quirks where
  /-- Force VF to 0 after 8xy1, 8xy2, 8xy3 (R110 to R112). -/
  vfReset : Bool
  /-- Advance I past the bytes of Fx55 and Fx65 (R125, R126). -/
  memory : Bool
  /-- 8xy6 and 8xyE shift Vx itself rather than Vy (R115, R117). -/
  shifting : Bool
  /-- Bnnn adds the register named by the top nibble of nnn rather than V0 (R104). -/
  jumping : Bool
  deriving DecidableEq, Repr

/-- `P_ADDR_POLICY`: what an address above 0xFFF does (R8, R53). -/
inductive AddrPolicy where
  | wrap12
  | fault
  deriving DecidableEq, Repr

/-- `P_VF_ORDER`: which of the flag and the result is written last (R8, R106). -/
inductive VfOrder where
  | flagThenResult
  | resultThenFlag
  deriving DecidableEq, Repr

/-- `P_KEY_INDEX`: what a key index above 0xF does (R8, R136). -/
inductive KeyIndexPolicy where
  | fault
  | mask4
  deriving DecidableEq, Repr

/-- `P_INITIAL_RUN_STATE`: Running or Paused (R8, R39). -/
inductive InitialRun where
  | running
  | paused
  deriving DecidableEq, Repr

/-- The construction inputs and parameters of R8, all read-only once the Machine exists (R40, R165).
The ROM is kept because `reset()` loads it again (R164). -/
structure Params where
  quirks     : Quirks
  rom        : List Byte
  fontBase   : Word
  fontData   : Vector Byte 80
  initialRun : InitialRun
  addrPolicy : AddrPolicy
  vfOrder    : VfOrder
  keyIndex   : KeyIndexPolicy
  timerGated : Bool
  deriving DecidableEq, Repr

/-- The byte of the `n`-th draw where that draw is a `draw_byte()`: a free value (R14, R118; log entry 3). -/
opaque Config.drawByte : Nat → Byte

/-- The choice of the `n`-th draw where that draw is a `draw_key(S)`: a free value, of which the model takes the
remainder by the number of keys in `S` as the place in `S` of the key drawn (R14, R138; log entry 3). -/
opaque Config.drawKey : Nat → Nat

end Sys2Proof
end

