-- ==== Sys2Proof/Machine/Params.lean ====
section
/-! DEFINITION. The values the construction parameters take in State.reset (spec/00_scope.md R8; log entry 1), the
checks `construct` makes on them, and the contents of memory that they fix (R166). -/

namespace Sys2Proof.Machine

/-- The number of bytes of memory (R7, R50). -/
def memorySize : Nat := 4096

/-- The program base 0x200 (R7, R58). -/
def programBase : Nat := 0x200

/-- The largest ROM, 4096 - 0x200 bytes (R7, R147). -/
def maxRom : Nat := memorySize - programBase

/-- The number of bytes of the font table, 16 glyphs of 5 bytes (R7, R34). -/
def fontSize : Nat := 80

/-- The spec's default for P_FONT_DATA, glyphs 0 to 7 (R35). -/
def fontGlyphsLow : List Byte :=
  [0xF0, 0x90, 0x90, 0x90, 0xF0,  0x20, 0x60, 0x20, 0x20, 0x70,
   0xF0, 0x10, 0xF0, 0x80, 0xF0,  0xF0, 0x10, 0xF0, 0x10, 0xF0,
   0x90, 0x90, 0xF0, 0x10, 0x10,  0xF0, 0x80, 0xF0, 0x10, 0xF0,
   0xF0, 0x80, 0xF0, 0x90, 0xF0,  0xF0, 0x10, 0x20, 0x40, 0x40]

/-- The spec's default for P_FONT_DATA, glyphs 8 to F (R35). -/
def fontGlyphsHigh : List Byte :=
  [0xF0, 0x90, 0xF0, 0x90, 0xF0,  0xF0, 0x90, 0xF0, 0x10, 0xF0,
   0xF0, 0x90, 0xF0, 0x90, 0x90,  0xE0, 0x90, 0xE0, 0x90, 0xE0,
   0xF0, 0x80, 0x80, 0x80, 0xF0,  0xE0, 0x90, 0x90, 0x90, 0xE0,
   0xF0, 0x80, 0xF0, 0x80, 0xF0,  0xF0, 0x80, 0xF0, 0x80, 0x80]

/-- The spec's default for P_FONT_DATA: 80 bytes, top row of each glyph first (R34, R35). -/
def defaultFont : Vector Byte 80 := ⟨(fontGlyphsLow ++ fontGlyphsHigh).toArray, rfl⟩

/-- Every quirk clear. DESIGN CHOICE (log entry 1): the spec gives no default for this construction input; these are
the defaults of its test vectors. -/
def defaultQuirks : Quirks := { vfReset := false, memory := false, shifting := false, jumping := false }

/-- The parameters of State.reset: the defaults of R8 where it gives one; `quirks`, `rom` and `initialRun` are DESIGN
CHOICE (log entry 1). -/
def defaultParams : Params where
  quirks := defaultQuirks
  rom := []
  fontBase := 0x050
  fontData := defaultFont
  initialRun := .running
  addrPolicy := .wrap12
  vfOrder := .flagThenResult
  keyIndex := .fault
  timerGated := false

/-- The font lies wholly below the program base (R172). -/
def fontBaseLegal (p : Params) : Bool := p.fontBase.toNat + fontSize ≤ programBase

/-- The ROM fits after the program base (R147). -/
def romFits (p : Params) : Bool := p.rom.length ≤ maxRom

/-- The parameters a Machine can have: `construct` accepts no others (R164, R172). -/
def paramsLegal (p : Params) : Bool := fontBaseLegal p && romFits p

/-- The byte at address `a` after construction and after reset: the ROM, copied last, then the font, then 0
(R48, R58, R67, R68, R166). This is what an address that the memory list does not list reads as (log entry 5). -/
def initialByte (p : Params) (a : Nat) : Byte :=
  if programBase ≤ a ∧ a < programBase + p.rom.length then p.rom.getD (a - programBase) 0
  else if p.fontBase.toNat ≤ a ∧ a < p.fontBase.toNat + fontSize then
    p.fontData.toList.getD (a - p.fontBase.toNat) 0
  else 0

end Sys2Proof.Machine
end

