-- ==== Sys2Proof/Machine/State.lean ====
section
/-! DEFINITION. The state of the core (spec/10_state.md R18 to R48), the errors a step records, and the reasons an
operation stops. State is plain data. -/

namespace Sys2Proof.Machine

/-- The execution state `run` (R39). -/
inductive RunState where
  | running
  | paused
  | terminated
  deriving DecidableEq, Repr

/-- An error result of `step()` (R142). The machine goes on after one (R149): the step answers the state of R148
with the error appended to `history` (R154; log entry 2). -/
inductive StepError where
  /-- The fetched word decodes to no instruction (R143). -/
  | unknownInstruction (op : Word)
  /-- A CALL with sp = 16 (R144). -/
  | stackOverflow
  /-- A RET with sp = 0 (R145). -/
  | emptyStack
  /-- An address above 0xFFF under `P_ADDR_POLICY = Fault`, or a key index above 0xF under `P_KEY_INDEX = Fault`:
  the address or index (R146). -/
  | boundsFault (v : Nat)
  deriving DecidableEq, Repr

/-- Why the machine stops. No step and no instruction raises one: an error of a step is a next state (log entry 2). -/
inductive Fault where
  /-- Raised by `construct` only, for a ROM longer than 3584 bytes: no Machine exists (R147). Safe: the spec says
  that construction fails outright. -/
  | romTooBig (size : Nat)
  deriving DecidableEq, Repr

/-- Why an operation is turned away. No step and no instruction answers one. -/
inductive Refusal where
  /-- Raised by an arm of `exec` for an instruction without a meaning: none is left. Safe: nothing is claimed. -/
  | notModelled (mnemonic : String)
  /-- Raised by `construct` only, for a font that does not lie below the program base (R172). Safe: no Machine exists. -/
  | fontBaseOutOfRange (fontBase : Word)
  /-- Raised by `key_down` and `key_up` only, for a code above 0xF (R43). Safe: no state changes. -/
  | keyCodeOutOfRange (code : Nat)
  deriving DecidableEq, Repr

/-- The framebuffer: 32 rows of 64 pixels, each lit or not (R36). -/
abbrev Framebuffer := Vector (Vector Bool 64) 32

/-- Everything the spec gives the machine, and two fields of the model's own, `draws` and `history`. -/
structure State where
  /-- The quirks, the retained ROM and the construction parameters, read-only (R38, R40, R164, R165). -/
  params  : Params
  /-- V0 to VF (R18). -/
  v       : Vector Byte 16
  /-- The index register I (R21). -/
  i       : Word
  /-- The program counter (R22). -/
  pc      : Word
  /-- The stack pointer: the number of entries in use (R25). -/
  sp      : Nat
  /-- The return stack (R26). -/
  stack   : Vector Word 16
  /-- The delay timer DT (R31). -/
  dt      : Byte
  /-- The sound timer ST (R32). -/
  st      : Byte
  /-- Memory M, as the list of the bytes that differ from `initialByte` (R33, R50; log entry 5). -/
  mem     : List Host.Cell
  /-- The framebuffer FB (R36). -/
  fb      : Framebuffer
  /-- The keypad K: which keys are down (R37). -/
  keys    : Vector Bool 16
  /-- The execution state (R39). -/
  run     : RunState
  /-- The model's own: how many draws have been made, the number of the next free value (log entry 3). -/
  draws   : Nat
  /-- The model's own: every error result of `step()`, oldest first (R154; log entry 2). -/
  history : List StepError
  deriving DecidableEq, Repr

/-- No pixel lit. -/
def blankScreen : Framebuffer := Vector.replicate 32 (Vector.replicate 64 false)

/-- The state `construct` builds, but for the execution state, which the caller names (R48, R166). -/
def State.initial (p : Params) (run : RunState) : State where
  params := p
  v := Vector.replicate 16 0
  i := 0
  pc := 0x200
  sp := 0
  stack := Vector.replicate 16 0
  dt := 0
  st := 0
  mem := []
  fb := blankScreen
  keys := Vector.replicate 16 false
  run := run
  draws := 0
  history := []

/-- The machine right after `reset()`: R48's column "after reset()", with the parameters of log entry 1. -/
def State.reset : State := State.initial defaultParams .running

end Sys2Proof.Machine
end

