-- ==== Sys2Proof/Machine/Memory.lean ====
section
/-! DEFINITION. Memory as a list of (address, byte) pairs in one canonical form, over a function that says what an
unlisted address reads as (spec/20_memory.md R50, R58, R61; log entry 5). -/

namespace Sys2Proof.Machine

/-- The byte at `a`: the first listed byte, else what the address reads as unlisted. -/
def Memory.read (p : Params) : List Host.Cell → Nat → Byte
  | [], a => initialByte p a
  | c :: rest, a => if c.1 = a then c.2 else Memory.read p rest a

/-- List `b` at `a`, keeping the addresses rising. -/
def Memory.insert (a : Nat) (b : Byte) : List Host.Cell → List Host.Cell
  | [] => [(a, b)]
  | c :: rest =>
    if a < c.1 then (a, b) :: c :: rest
    else if a = c.1 then (a, b) :: rest
    else c :: Memory.insert a b rest

/-- List nothing at `a`. -/
def Memory.remove (a : Nat) : List Host.Cell → List Host.Cell
  | [] => []
  | c :: rest => if c.1 = a then Memory.remove a rest else c :: Memory.remove a rest

/-- Store `b` at `a`: a byte equal to what `a` reads as unlisted leaves the list. -/
def Memory.write (p : Params) (m : List Host.Cell) (a : Nat) (b : Byte) : List Host.Cell :=
  if b = initialByte p a then Memory.remove a m else Memory.insert a b m

/-- The canonical form: addresses strictly rising and inside memory, and no entry equal to what its address reads as
unlisted. -/
abbrev Memory.wf (p : Params) (m : List Host.Cell) : Prop :=
  m.Pairwise (fun c d => c.1 < d.1) ∧ ∀ c ∈ m, c.1 < memorySize ∧ c.2 ≠ initialByte p c.1

end Sys2Proof.Machine
end

