-- ==== Sys2Proof/Machine/Ops.lean ====
section
/-! DEFINITION. The named operations over the state: registers, memory, the address policy, the fetch, the stack, the
framebuffer, the draws, and the one operation that takes an error. -/

namespace Sys2Proof.Machine

/-- What a step or a meaning answers. -/
abbrev Result := Host.Outcome State Fault Refusal

/-! ## Registers (R18, R21, R22, R31, R32) -/

/-- `V[r]`. -/
def State.reg (s : State) (r : Reg) : Byte := s.v[r]

/-- `V[r] <- b`. -/
def State.setReg (s : State) (r : Reg) (b : Byte) : State := { s with v := s.v.set r b }

/-- `I <- w`. -/
def State.setI (s : State) (w : Word) : State := { s with i := w }

/-- `pc <- w`. -/
def State.setPc (s : State) (w : Word) : State := { s with pc := w }

/-- `DT <- b`. -/
def State.setDT (s : State) (b : Byte) : State := { s with dt := b }

/-- `ST <- b`. -/
def State.setST (s : State) (b : Byte) : State := { s with st := b }

/-- `run <- r`. -/
def State.setRun (s : State) (r : RunState) : State := { s with run := r }

/-- The pc advance of a step and the skip: `pc <- (pc + 2) mod 2^16` (R78, R96). -/
def State.advance (s : State) : State := s.setPc (s.pc + 2)

/-- The rewind of a waiting Fx0A: `pc <- (pc - 2) mod 2^16` (R138). -/
def State.rewind (s : State) : State := s.setPc (s.pc - 2)

/-! ## Errors (R13, R141 to R154)

The core has no trap entry and no return from one (R152): an error saves nothing and changes nothing by itself. -/

/-- `raise e`: the step ends with the error result `e`, every state change already made stays (R13), and the model
records the error (R154; log entry 2). -/
def State.raise (s : State) (e : StepError) : State := { s with history := s.history ++ [e] }

/-! ## Memory (R53, R54, R57, R61, R120) -/

/-- The byte of `M` at the physical address `a`. -/
def State.byteAt (s : State) (a : Nat) : Byte := Memory.read s.params s.mem a

/-- `M[a] <- b` at the physical address `a`: every byte is writable (R59). -/
def State.writeByte (s : State) (a : Nat) (b : Byte) : State := { s with mem := Memory.write s.params s.mem a b }

/-- `Addr(a)`: the physical address of an access, or the error of a failed check (R53). -/
def physical (policy : AddrPolicy) (a : Nat) : Except StepError Nat :=
  match policy with
  | .wrap12 => .ok (a % memorySize)
  | .fault => if a ≥ memorySize then .error (.boundsFault a) else .ok a

/-- The physical addresses of a transfer of `count` bytes from `a`, in increasing order of offset, or the error of the
smallest address out of range: every check comes before every access (R56, R57, R120). -/
def transferAddrs (policy : AddrPolicy) (a : Nat) : Nat → Except StepError (List Nat)
  | 0 => .ok []
  | count + 1 =>
    match physical policy a with
    | .error e => .error e
    | .ok first =>
      match transferAddrs policy (a + 1) count with
      | .error e => .error e
      | .ok rest => .ok (first :: rest)

/-- Store bytes at addresses, pair by pair, in order. -/
def State.writeBytes (s : State) : List Nat → List Byte → State
  | a :: as, b :: bs => (s.writeByte a b).writeBytes as bs
  | _, _ => s

/-- A transfer of `count` bytes at I: `k` runs on the physical addresses, or the failed check is raised and nothing
else happens (R120). -/
def State.transfer (s : State) (count : Nat) (k : List Nat → State) : Result :=
  match transferAddrs s.params.addrPolicy s.i.toNat count with
  | .error e => .next (s.raise e)
  | .ok addrs => .next (k addrs)

/-- `Fetch(pc)`: the big-endian word at pc and pc + 1, both passed to `Addr` unreduced (R55, R77). -/
def State.fetch (s : State) : Except StepError Word :=
  match physical s.params.addrPolicy s.pc.toNat with
  | .error e => .error e
  | .ok a =>
    match physical s.params.addrPolicy (s.pc.toNat + 1) with
    | .error e => .error e
    | .ok b => .ok (wordOfBytes (s.byteAt a) (s.byteAt b))

/-! ## The return stack (R25 to R30) -/

/-- `push(w)`, or the failed push, which changes nothing (R29; a stack pointer above 16 is no state of the core:
log entry 7). -/
def State.push (s : State) (w : Word) : Except StepError State :=
  if h : s.sp < 16 then .ok { s with stack := s.stack.set s.sp w h, sp := s.sp + 1 }
  else .error .stackOverflow

/-- `pop()`: the value and the state after it, or the failed pop, which changes nothing (R30). -/
def State.pop (s : State) : Except StepError (Word × State) :=
  match s.sp with
  | 0 => .error .emptyStack
  | k + 1 => .ok (s.stack.toList.getD k 0, { s with sp := k })

/-! ## The framebuffer (R36, R127 to R131) -/

/-- `FB[row][col]`; no pixel stands outside the screen. -/
def pixelAt (fb : Framebuffer) (row col : Nat) : Bool :=
  if h : row < 32 ∧ col < 64 then (fb[row]'h.1)[col]'h.2 else false

/-- One pixel of a sprite: XOR into the screen, and the collision flag so far; a pixel off the screen is dropped and
takes no part in the flag (R129 to R131). -/
def blitPixel (acc : Framebuffer × Bool) (row col : Nat) (src : Bool) : Framebuffer × Bool :=
  if h : row < 32 ∧ col < 64 then
    (acc.1.set row ((acc.1[row]'h.1).set col ((acc.1[row]'h.1)[col]'h.2 ^^ src) h.2) h.1,
      acc.2 || (src && (acc.1[row]'h.1)[col]'h.2))
  else acc

/-- One byte of a sprite: eight pixels from column `ox`, bit 7 first (R127, R129). -/
def blitByte (acc : Framebuffer × Bool) (row ox : Nat) (b : Byte) : Framebuffer × Bool :=
  (List.range 8).foldl (fun acc k => blitPixel acc row (ox + k) (b.getLsbD (7 - k))) acc

/-- The bytes of a sprite, one a row, from row `row` down (R127, R129). -/
def blitRows (acc : Framebuffer × Bool) (row ox : Nat) : List Byte → Framebuffer × Bool
  | [] => acc
  | b :: bs => blitRows (blitByte acc row ox b) (row + 1) ox bs

/-! ## The keypad and the draws (R14, R37, R138) -/

/-- The keys that are down, in increasing order. -/
def State.pressed (s : State) : List Reg := (List.finRange 16).filter (fun k => s.keys[k])

/-- The byte of the draw this step makes (R14). -/
def State.drawByte (s : State) : Byte := Config.drawByte s.draws

/-- The key of the draw this step makes among `first :: rest`: any of them (R14). -/
def State.drawKey (s : State) (first : Reg) (rest : List Reg) : Reg :=
  (first :: rest).getD (Config.drawKey s.draws % (rest.length + 1)) first

/-- A draw has been made: the next one is another free value (log entry 3). -/
def State.drawn (s : State) : State := { s with draws := s.draws + 1 }

end Sys2Proof.Machine
end

