-- ==== Sys2Proof/Machine/Flags.lean ====
section
/-! DEFINITION. The values VF takes as the flags output and the order in which it is written (spec/10_state.md R20;
41_alu.md R106, R110 to R117; 43_display.md R131). -/

namespace Sys2Proof.Machine

/-- A flag as a byte, 0 or 1. -/
def flagByte (f : Bool) : Byte := if f then 1 else 0

/-- The carry of an addition: the exact sum passes 255 (R113). -/
def carryFlag (a b : Byte) : Byte := flagByte (a.toNat + b.toNat > 255)

/-- The no-borrow flag of `a - b`: 1 where `b <= a`, equality included (R114, R116). -/
def noBorrowFlag (a b : Byte) : Byte := flagByte (b.toNat ≤ a.toNat)

/-- The bit a right shift loses, bit 0 (R115). -/
def lowBitFlag (a : Byte) : Byte := flagByte (a.getLsbD 0)

/-- The bit a left shift loses, bit 7 (R117). -/
def highBitFlag (a : Byte) : Byte := flagByte (a.getLsbD 7)

/-- `WriteRF(x, r, f)`: the result to Vx and the flag to VF, in the order of `P_VF_ORDER` (R106). -/
def State.writeResultFlag (s : State) (x : Reg) (r f : Byte) : State :=
  match s.params.vfOrder with
  | .flagThenResult => (s.setReg VF f).setReg x r
  | .resultThenFlag => (s.setReg x r).setReg VF f

/-- The bitwise operations' flag: VF forced to 0 afterward with the `vf_reset` quirk, else untouched (R110). -/
def State.vfResetQuirk (s : State) : State := if s.params.quirks.vfReset then s.setReg VF 0 else s

end Sys2Proof.Machine
end

