-- ==== Sys2Proof/Machine/Operands.lean ====
section
/-! DEFINITION. How operands are formed (spec/30_encoding.md R72, R73; R104, R115, R117, R124, R129, R136). -/

namespace Sys2Proof.Machine

/-- `zext_16(nnn)`: an address field as written to pc or I (R72). -/
def zext (nnn : Address) : Word := nnn.setWidth 16

/-- `zext_16(b)`: a byte as added to pc or I (R104, R122). -/
def zextByte (b : Byte) : Word := b.setWidth 16

/-- The source of a shift: Vx with the `shifting` quirk, else Vy (R115, R117). -/
def State.shiftSource (s : State) (x y : Reg) : Byte := if s.params.quirks.shifting then s.reg x else s.reg y

/-- The base register of Bnnn: Vx with the `jumping` quirk, else V0 (R104). -/
def State.jumpBase (s : State) (x : Reg) : Byte := if s.params.quirks.jumping then s.reg x else s.reg 0

/-- `KeyIndex(v)`: the key a register names, or the error of a failed check (R136). -/
def keyIndex (policy : KeyIndexPolicy) (b : Byte) : Except StepError Reg :=
  if h : b.toNat < 16 then .ok ⟨b.toNat, h⟩
  else
    match policy with
    | .mask4 => .ok ⟨b.toNat % 16, Nat.mod_lt _ (by decide)⟩
    | .fault => .error (.boundsFault b.toNat)

/-- The origin column of a sprite, `Vx mod 64` (R127). -/
def State.originCol (s : State) (x : Reg) : Nat := (s.reg x).toNat % 64

/-- The origin row of a sprite, `Vy mod 32` (R127). -/
def State.originRow (s : State) (y : Reg) : Nat := (s.reg y).toNat % 32

/-- The address of the glyph a register names: `(P_FONT_BASE + 5 * Vx) mod 2^16`, unmasked (R123). -/
def glyphAddress (p : Params) (b : Byte) : Word := p.fontBase + 5 * zextByte b

/-- The hundreds, tens and units digits of a byte (R124). -/
def bcdDigits (b : Byte) : List Byte :=
  [BitVec.ofNat 8 (b.toNat / 100), BitVec.ofNat 8 (b.toNat / 10 % 10), BitVec.ofNat 8 (b.toNat % 10)]

/-- V0 to Vx, the bytes a register dump stores (R125). -/
def State.dumpBytes (s : State) (x : Reg) : List Byte := s.v.toList.take (x.val + 1)

/-- Load bytes into the registers from number `k` up (R126). -/
def loadRegs (v : Vector Byte 16) (k : Nat) : List Byte → Vector Byte 16
  | [] => v
  | b :: bs => loadRegs (v.setIfInBounds k b) (k + 1) bs

/-- I after a register dump or load of V0 to Vx: advanced past the bytes with the `memory` quirk (R125, R126). -/
def State.bumpIndex (s : State) (x : Reg) : State :=
  if s.params.quirks.memory then s.setI (s.i + BitVec.ofNat 16 (x.val + 1)) else s

end Sys2Proof.Machine
end

