-- ==== Sys2Proof/Machine/Alu.lean ====
section
/-! DEFINITION. Register loads, arithmetic, logic, shifts and random (spec/41_alu.md R106 to R119). -/

namespace Sys2Proof.Machine

/-- LD Vx, nn (R107). -/
def execLdByte (x : Reg) (nn : Byte) (s : State) : Result := .next (s.setReg x nn)

/-- ADD Vx, nn (R108): no flag. -/
def execAddByte (x : Reg) (nn : Byte) (s : State) : Result := .next (s.setReg x (s.reg x + nn))

/-- LD Vx, Vy (R109). -/
def execLdReg (x y : Reg) (s : State) : Result := .next (s.setReg x (s.reg y))

/-- OR Vx, Vy (R110). -/
def execOrReg (x y : Reg) (s : State) : Result := .next (s.setReg x (s.reg x ||| s.reg y)).vfResetQuirk

/-- AND Vx, Vy (R111). -/
def execAndReg (x y : Reg) (s : State) : Result := .next (s.setReg x (s.reg x &&& s.reg y)).vfResetQuirk

/-- XOR Vx, Vy (R112). -/
def execXorReg (x y : Reg) (s : State) : Result := .next (s.setReg x (s.reg x ^^^ s.reg y)).vfResetQuirk

/-- ADD Vx, Vy (R113). -/
def execAddReg (x y : Reg) (s : State) : Result :=
  .next (s.writeResultFlag x (s.reg x + s.reg y) (carryFlag (s.reg x) (s.reg y)))

/-- SUB Vx, Vy (R114). -/
def execSubReg (x y : Reg) (s : State) : Result :=
  .next (s.writeResultFlag x (s.reg x - s.reg y) (noBorrowFlag (s.reg x) (s.reg y)))

/-- SHR Vx, Vy (R115). -/
def execShrReg (x y : Reg) (s : State) : Result :=
  .next (s.writeResultFlag x (s.shiftSource x y >>> 1) (lowBitFlag (s.shiftSource x y)))

/-- SUBN Vx, Vy (R116). -/
def execSubnReg (x y : Reg) (s : State) : Result :=
  .next (s.writeResultFlag x (s.reg y - s.reg x) (noBorrowFlag (s.reg y) (s.reg x)))

/-- SHL Vx, Vy (R117). -/
def execShlReg (x y : Reg) (s : State) : Result :=
  .next (s.writeResultFlag x (s.shiftSource x y <<< 1) (highBitFlag (s.shiftSource x y)))

/-- RND Vx, nn (R118): the byte is a free value (log entry 3). -/
def execRnd (x : Reg) (nn : Byte) (s : State) : Result := .next (s.setReg x (nn &&& s.drawByte)).drawn

end Sys2Proof.Machine
end

