-- ==== Sys2Proof/Machine/Control.lean ====
section
/-! DEFINITION. Control transfer and skips (spec/40_control.md R95 to R105). Each meaning runs on the state after the
pc advance (R95). -/

namespace Sys2Proof.Machine

/-- `skip()` where the condition holds (R96). -/
def State.skipIf (s : State) (c : Bool) : Result := .next (if c then s.advance else s)

/-- RET (R97). -/
def execRet (s : State) : Result :=
  match s.pop with
  | .error e => .next (s.raise e)
  | .ok (target, s') => .next (s'.setPc target)

/-- JP nnn (R98). -/
def execJp (nnn : Address) (s : State) : Result := .next (s.setPc (zext nnn))

/-- CALL nnn (R99): pc is the CALL's address + 2. -/
def execCall (nnn : Address) (s : State) : Result :=
  match s.push s.pc with
  | .error e => .next (s.raise e)
  | .ok s' => .next (s'.setPc (zext nnn))

/-- SE Vx, nn (R100). -/
def execSeByte (x : Reg) (nn : Byte) (s : State) : Result := s.skipIf (s.reg x == nn)

/-- SNE Vx, nn (R101). -/
def execSneByte (x : Reg) (nn : Byte) (s : State) : Result := s.skipIf (s.reg x != nn)

/-- SE Vx, Vy (R102). -/
def execSeReg (x y : Reg) (s : State) : Result := s.skipIf (s.reg x == s.reg y)

/-- SNE Vx, Vy (R103). -/
def execSneReg (x y : Reg) (s : State) : Result := s.skipIf (s.reg x != s.reg y)

/-- JP V0, nnn (R104). -/
def execJpV0 (x : Reg) (nnn : Address) (s : State) : Result :=
  .next (s.setPc (zextByte (s.jumpBase x) + zext nnn))

end Sys2Proof.Machine
end

