-- ==== Sys2Proof/Machine/Display.lean ====
section
/-! DEFINITION. The framebuffer instructions (spec/43_display.md R127 to R133). -/

namespace Sys2Proof.Machine

/-- CLS (R128). -/
def execCls (s : State) : Result := .next { s with fb := blankScreen }

/-- The screen and the collision flag after a sprite is drawn at the origin Vx and Vy name (R129). -/
def State.drawSprite (s : State) (x y : Reg) (sprite : List Byte) : Framebuffer × Bool :=
  blitRows (s.fb, false) (s.originRow y) (s.originCol x) sprite

/-- DRW Vx, Vy, n (R129): coordinates and all sprite bytes are read first, VF is written last (R133). -/
def execDrw (x y : Reg) (n : Nibble) (s : State) : Result :=
  s.transfer n.toNat (fun addrs =>
    State.setReg { s with fb := (s.drawSprite x y (addrs.map s.byteAt)).1 } VF
      (flagByte (s.drawSprite x y (addrs.map s.byteAt)).2))

end Sys2Proof.Machine
end

