-- ==== Sys2Proof/Machine/IndexMemory.lean ====
section
/-! DEFINITION. The index register and memory transfers (spec/42_index_memory.md R120 to R126). -/

namespace Sys2Proof.Machine

/-- LD I, nnn (R121). -/
def execLdI (nnn : Address) (s : State) : Result := .next (s.setI (zext nnn))

/-- ADD I, Vx (R122): mod 2^16, no flag. -/
def execAddI (x : Reg) (s : State) : Result := .next (s.setI (s.i + zextByte (s.reg x)))

/-- LD F, Vx (R123). -/
def execLdF (x : Reg) (s : State) : Result := .next (s.setI (glyphAddress s.params (s.reg x)))

/-- LD B, Vx (R124). -/
def execLdB (x : Reg) (s : State) : Result :=
  s.transfer 3 (fun addrs => s.writeBytes addrs (bcdDigits (s.reg x)))

/-- LD [I], Vx (R125). -/
def execLdIVx (x : Reg) (s : State) : Result :=
  s.transfer (x.val + 1) (fun addrs => (s.writeBytes addrs (s.dumpBytes x)).bumpIndex x)

/-- LD Vx, [I] (R126). -/
def execLdVxI (x : Reg) (s : State) : Result :=
  s.transfer (x.val + 1) (fun addrs =>
    State.bumpIndex { s with v := loadRegs s.v 0 (addrs.map s.byteAt) } x)

end Sys2Proof.Machine
end

