-- ==== Sys2Proof/Machine/KeysTimers.lean ====
section
/-! DEFINITION. The keypad and timer instructions (spec/44_io_timers.md R134 to R140). -/

namespace Sys2Proof.Machine

/-- A key skip: the register names a key, or the failed check is raised (R134 to R136). -/
def State.keySkip (s : State) (x : Reg) (down : Bool) : Result :=
  match keyIndex s.params.keyIndex (s.reg x) with
  | .error e => .next (s.raise e)
  | .ok k => s.skipIf (s.keys[k] == down)

/-- SKP Vx (R134). -/
def execSkp (x : Reg) (s : State) : Result := s.keySkip x true

/-- SKNP Vx (R135). -/
def execSknp (x : Reg) (s : State) : Result := s.keySkip x false

/-- LD Vx, DT (R137). -/
def execLdVxDT (x : Reg) (s : State) : Result := .next (s.setReg x s.dt)

/-- LD Vx, K (R138): with no key down the pc is rewound; else a key that is down is drawn (log entry 3). -/
def execLdVxK (x : Reg) (s : State) : Result :=
  match s.pressed with
  | [] => .next s.rewind
  | first :: rest => .next (s.setReg x (BitVec.ofNat 8 (s.drawKey first rest).val)).drawn

/-- LD DT, Vx (R139). -/
def execLdDTVx (x : Reg) (s : State) : Result := .next (s.setDT (s.reg x))

/-- LD ST, Vx (R140). -/
def execLdSTVx (x : Reg) (s : State) : Result := .next (s.setST (s.reg x))

end Sys2Proof.Machine
end

