-- ==== Sys2Proof/Machine/Fetch.lean ====
section
/-! DEFINITION. Placing an instruction where the next step fetches it, for the host's question about a step
(log entry 8): the fetch itself is `State.fetch` in Machine/Ops.lean. -/

namespace Sys2Proof.Machine

/-- A state whose next step fetches: Running (R76), and with a pc that the fetch's own check admits, which only
`P_ADDR_POLICY = Fault` can deny (R77). -/
def State.readyToFetch (s : State) : State :=
  if s.params.addrPolicy = .fault ∧ s.pc.toNat + 1 ≥ memorySize then (s.setRun .running).setPc 0x200
  else s.setRun .running

/-- The word's two bytes stored where the fetch reads them, high byte first (R55, R77). -/
def State.storeAtPc (s : State) (op : Word) : State :=
  (s.writeByte (s.pc.toNat % memorySize) (highByte op)).writeByte ((s.pc.toNat + 1) % memorySize) (lowByte op)

end Sys2Proof.Machine
end

