-- ==== Sys2Proof/Machine/Step.lean ====
section
/-! DEFINITION. One call of `step()`: fetch, advance, decode, dispatch (spec/30_encoding.md R76 to R80). -/

namespace Sys2Proof.Machine

/-- `step()` (R76): nothing unless Running; else fetch (R77), advance pc by 2 (R78), decode (R79), and run the
instruction, or raise UnknownInstruction (R80). -/
def step (s : State) : Host.Outcome State Fault Refusal :=
  match s.run with
  | .paused | .terminated => .next s
  | .running =>
    match s.fetch with
    | .error e => .next (s.raise e)
    | .ok op =>
      match decode op with
      | .error (.unknown word) => .next (s.advance.raise (.unknownInstruction word))
      | .ok i => exec i s.advance

/-- The state whose next step fetches and runs the instruction of the table word `w` (log entry 8). -/
def State.withFetchWord (s : State) (nbits w : Nat) : State := s.readyToFetch.storeAtPc (tableWord nbits w)

end Sys2Proof.Machine
end

