-- ==== Sys2Proof/Machine/HostOps.lean ====
section
/-! DEFINITION. The host interface: the operations through which the outside reaches the core, each one atomic
transition (spec/10_state.md R41 to R46; 60_exceptions.md R147, R157 to R159; 70_reset_and_hazards.md R164 to R172). -/

namespace Sys2Proof.Machine

/-- The operations of R41 on a Machine that exists. -/
inductive HostOp where
  | reset
  | getState
  | terminate
  | toggleExecution
  | onTimer
  | step
  | getFramebuffer
  | keyDown (code : Nat)
  | keyUp (code : Nat)
  | isAudioPlaying
  deriving DecidableEq, Repr

/-- What an operation returns (R41). -/
inductive HostResult where
  | none
  | runState (r : RunState)
  | ok
  | error (e : StepError)
  | framebuffer (cells : List Byte)
  | audio (playing : Bool)
  deriving DecidableEq, Repr

/-- The execution state of P_INITIAL_RUN_STATE (R39). -/
def initialRunState : InitialRun → RunState
  | .running => .running
  | .paused => .paused

/-- `construct`: the ROM length is checked first (R147, R164), then the font base (R172); the Machine starts in
P_INITIAL_RUN_STATE (R166). -/
def construct (p : Params) : Result :=
  if romFits p then
    if fontBaseLegal p then .next (State.initial p (initialRunState p.initialRun))
    else .refused (.fontBaseOutOfRange p.fontBase)
  else .fault (.romTooBig p.rom.length)

/-- `reset()` (R167 to R170): the state after construction with the retained inputs, Running. The model's own record
of draws and errors goes on (R154; log entry 4). -/
def hostReset (s : State) : State :=
  { State.initial s.params .running with draws := s.draws, history := s.history }

/-- `terminate()` (R44). -/
def terminate (s : State) : State := s.setRun .terminated

/-- `toggle_execution()` (R45). -/
def toggleExecution (s : State) : State :=
  match s.run with
  | .running => s.setRun .paused
  | .paused => s.setRun .running
  | .terminated => s

/-- A timer after one tick: decremented, saturating at 0 (R157). -/
def tick (b : Byte) : Byte := if b = 0 then 0 else b - 1

/-- `on_timer()` (R157, R158). -/
def onTimer (s : State) : State :=
  if s.params.timerGated ∧ s.run ≠ .running then s else (s.setDT (tick s.dt)).setST (tick s.st)

/-- `key_down` or `key_up` of a key that exists (R43). -/
def setKey (k : Reg) (down : Bool) (s : State) : State := { s with keys := s.keys.set k down }

/-- `is_audio_playing()` (R159). -/
def isAudioPlaying (s : State) : Bool := s.st != 0

/-- `get_framebuffer()`: 2048 bytes of 0 or 1 in row-major order (R46). -/
def framebufferBytes (fb : Framebuffer) : List Byte :=
  fb.toList.flatMap (fun row => row.toList.map (fun lit => if lit then 1 else 0))

/-- The result `step()` reports: Ok, or the error it recorded (R153; log entry 2). -/
def stepResult (before after : State) : HostResult :=
  match after.history.drop before.history.length with
  | [] => .ok
  | e :: _ => .error e

/-- `key_down` and `key_up`: a code above 0xF is refused (R43). -/
def keyEvent (code : Nat) (down : Bool) (s : State) : Host.Outcome (State × HostResult) Fault Refusal :=
  if h : code < 16 then .next (setKey ⟨code, h⟩ down s, .none) else .refused (.keyCodeOutOfRange code)

/-- One operation of the host: the next state and what the operation returns (R41, R42). -/
def hostCall (op : HostOp) (s : State) : Host.Outcome (State × HostResult) Fault Refusal :=
  match op with
  | .reset => .next (hostReset s, .none)
  | .getState => .next (s, .runState s.run)
  | .terminate => .next (terminate s, .none)
  | .toggleExecution => .next (toggleExecution s, .none)
  | .onTimer => .next (onTimer s, .none)
  | .step =>
    match step s with
    | .next t => .next (t, stepResult s t)
    | .fault r => .fault r
    | .refused r => .refused r
  | .getFramebuffer => .next (s, .framebuffer (framebufferBytes s.fb))
  | .keyDown code => keyEvent code true s
  | .keyUp code => keyEvent code false s
  | .isAudioPlaying => .next (s, .audio (isAudioPlaying s))

/-- A sequence of operations of the host, each on the state the one before left (R42). -/
def hostRun : List HostOp → State → Result
  | [], s => .next s
  | op :: ops, s =>
    match hostCall op s with
    | .next (t, _) => hostRun ops t
    | .fault r => .fault r
    | .refused r => .refused r

end Sys2Proof.Machine
end

