-- ==== Sys2Proof/Safety.lean ====
section
/-! DEFINITION. The vocabulary of claims: the invariant of the machine, what a state is made of and what may change
between two states, when an error has been recorded, and when a program has ended. -/

namespace Sys2Proof.Machine

/-! ## The invariant -/

/-- The states of a Machine: memory in canonical form, the stack pointer in 0 to 16 (R25), and parameters that
`construct` accepts (R147, R172). -/
abbrev State.Inv (s : State) : Prop :=
  Memory.wf s.params s.mem ∧ s.sp ≤ 16 ∧ paramsLegal s.params = true

/-! ## Frames -/

/-- One part of the state. Memory is a part per byte, the return stack a part per entry, the registers a part each. -/
inductive Part where
  | reg (r : Reg)
  | index
  | pc
  | sp
  | stackEntry (k : Nat)
  | delay
  | sound
  | byte (a : Nat)
  | screen
  | keypad
  | run
  | params
  | draws
  | history
  deriving DecidableEq, Repr

/-- A part reads in `t` as it reads in `s`. -/
def Unchanged (s t : State) : Part → Prop
  | .reg r => t.reg r = s.reg r
  | .index => t.i = s.i
  | .pc => t.pc = s.pc
  | .sp => t.sp = s.sp
  | .stackEntry k => t.stack.toList.getD k 0 = s.stack.toList.getD k 0
  | .delay => t.dt = s.dt
  | .sound => t.st = s.st
  | .byte a => t.byteAt a = s.byteAt a
  | .screen => t.fb = s.fb
  | .keypad => t.keys = s.keys
  | .run => t.run = s.run
  | .params => t.params = s.params
  | .draws => t.draws = s.draws
  | .history => t.history = s.history

/-- From `s` to `t` every part is unchanged but, perhaps, the listed ones: every other register, every other byte of
memory, every other stack entry, the screen, the timers, the execution state, the record of errors. -/
def ChangesOnly (parts : List Part) (s t : State) : Prop := ∀ p, p ∉ parts → Unchanged s t p

/-- The bytes a transfer of `count` bytes at I reaches: `(I + k) mod 4096` for `k < count` (R54). Where the policy is
Fault and the transfer is not an error, these are `I + k` (R53). -/
def State.transferBytes (s : State) (count : Nat) : List Nat :=
  (List.range count).map (fun k => (s.i.toNat + k) % memorySize)

/-- Whether a transfer of `count` bytes at I passes its checks (R53, R120): always under Wrap12; under Fault, when it
ends inside memory. A transfer of no bytes checks nothing. -/
abbrev State.transferAllowed (s : State) (count : Nat) : Prop :=
  s.params.addrPolicy = .wrap12 ∨ count = 0 ∨ s.i.toNat + count ≤ memorySize

/-! ## The effects of instructions, as claims say them -/

/-- The effect of WriteRF (R106): the result in Vx and the flag in VF, both as numbers; where Vx is VF, the one that
`P_VF_ORDER` writes last; and nothing else changes. -/
def ResultAndFlag (x : Reg) (result flag : Nat) (s t : State) : Prop :=
  ChangesOnly [.reg x, .reg VF] s t ∧
  (x ≠ VF → (t.reg x).toNat = result ∧ (t.reg VF).toNat = flag) ∧
  (x = VF → (t.reg VF).toNat = match s.params.vfOrder with
    | .flagThenResult => result
    | .resultThenFlag => flag)

/-- The pc of a skip: past one more word where the condition holds (R96). -/
def skipTarget (pc : Nat) (c : Bool) : Nat := if c then (pc + 2) % 65536 else pc

/-- Whether key number `k` is down. -/
def State.keyIsDown (s : State) (k : Nat) : Bool := s.keys.toList.getD k false

/-- I after a register dump or load of `count` registers (R125, R126). -/
def State.indexAfter (s : State) (count : Nat) : Nat :=
  if s.params.quirks.memory then (s.i.toNat + count) % 65536 else s.i.toNat

/-- The bit of the sprite of `DRW Vx, Vy, n` that falls on the pixel at `row`, `col`, false where none does: byte `r`
of the sprite, at `(I + r) mod 4096`, covers row `Vy mod 32 + r`, and its bit `7 - k` covers column `Vx mod 64 + k`
(R127, R129). -/
def State.spriteBit (s : State) (x y : Reg) (n : Nibble) (row col : Nat) : Bool :=
  decide ((s.reg y).toNat % 32 ≤ row ∧ row < (s.reg y).toNat % 32 + n.toNat ∧
    (s.reg x).toNat % 64 ≤ col ∧ col < (s.reg x).toNat % 64 + 8) &&
  (s.byteAt ((s.i.toNat + (row - (s.reg y).toNat % 32)) % memorySize)).getLsbD
    (7 - (col - (s.reg x).toNat % 64))

/-- A sprite bit that falls on the screen turns a lit pixel off (R131). -/
def State.collides (s : State) (x y : Reg) (n : Nibble) : Prop :=
  ∃ row col, row < 32 ∧ col < 64 ∧ pixelAt s.fb row col = true ∧ s.spriteBit x y n row col = true

/-! ## Errors and the end of a run -/

/-- A failed `step()`: exactly the error `e` was recorded (R153, R154). -/
abbrev Raised (e : StepError) (s t : State) : Prop := t.history = s.history ++ [e]

/-- No step has returned an error: the premise of a claim that is not about an error (R154). -/
def State.noError (s : State) : Bool := s.history.isEmpty

/-- The word at pc is a jump to itself and the machine is Running (R178). -/
def State.selfJump (s : State) : Bool :=
  match s.run, s.fetch with
  | .running, .ok op =>
    match decode op with
    | .ok (.jp nnn) => zext nnn == s.pc
    | _ => false
  | _, _ => false

/-- A program is at its end: at a self-jump, or a step has returned an error (R178). -/
def State.ended (s : State) : Bool := s.selfJump || !s.noError

/-! ## Stack sequences (R28) -/

/-- Push the values in order; the first failed push ends it. -/
def pushAll : List Word → State → Except StepError State
  | [], s => .ok s
  | w :: ws, s =>
    match s.push w with
    | .error e => .error e
    | .ok t => pushAll ws t

/-- Pop `n` values, the first popped first. -/
def popAll : Nat → State → Except StepError (List Word × State)
  | 0, s => .ok ([], s)
  | n + 1, s =>
    match s.pop with
    | .error e => .error e
    | .ok (w, t) =>
      match popAll n t with
      | .error e => .error e
      | .ok (ws, u) => .ok (w :: ws, u)

end Sys2Proof.Machine
end

