-- ==== Sys2Proof/Certificates/Slice0/Obligations.lean ====
section
/-! DEFINITION. The statements for the provers. Each docstring names the rules of spec/ it formalises; OBLIGATIONS.json
lists them. -/

open Sys2Proof Sys2Proof.Machine

/-! ## Encoding -/

/-- Decoding the word of a well-formed instruction gives it back, every operand at every value (R79, R85). -/
def Obligations.DecodeOfEncodeIsIdentity : Prop :=
  ∀ i : Instr, i.wellFormed = true → decode (encode i) = .ok i

/-- A word that decodes is the word of what it decodes to, which is well formed (R73, R79, R85). -/
def Obligations.EncodeOfDecodeIsIdentity : Prop :=
  ∀ (op : Word) (i : Instr), decode op = .ok i → i.wellFormed = true ∧ encode i = op

/-- The decoder is the table of R79: a word decodes to an instruction of the only row it matches, every row's words
decode to that row's instruction, and a word that matches no row is Unknown. -/
def Obligations.DecodeAgreesWithOpcodeTable : Prop :=
  ∀ op : Word,
    (∀ i, decode op = .ok i →
      i.row ∈ opcodeTable ∧ i.row.accepts op = true ∧ ∀ r ∈ opcodeTable, r.accepts op = true → r = i.row) ∧
    (∀ r ∈ opcodeTable, r.accepts op = true → ∃ i, decode op = .ok i ∧ i.row = r) ∧
    ((∀ r ∈ opcodeTable, r.accepts op = false) → decode op = .error (.unknown op))

/-- The Unknown words are exactly those of R80's table, family by family. -/
def Obligations.UnknownWordsAreTheFamiliesGaps : Prop :=
  ∀ op : Word, decode op = .error (.unknown op) ↔
    (header op = 0x0 ∧ fieldNNN op ≠ 0x0E0 ∧ fieldNNN op ≠ 0x0EE) ∨
    (header op = 0x5 ∧ fieldN op ≠ 0) ∨
    (header op = 0x8 ∧ fieldN op ∈ ([0x8, 0x9, 0xA, 0xB, 0xC, 0xD, 0xF] : List Nibble)) ∨
    (header op = 0x9 ∧ fieldN op ≠ 0) ∨
    (header op = 0xE ∧ fieldNN op ≠ 0x9E ∧ fieldNN op ≠ 0xA1) ∨
    (header op = 0xF ∧ fieldNN op ∉ ([0x07, 0x0A, 0x15, 0x18, 0x1E, 0x29, 0x33, 0x55, 0x65] : List Byte))

/-- Words written out from the spec decode to the instruction they stand for, one a family (R79, R85). -/
def Obligations.SpelledWordsDecode : Prop :=
  decodeBytes 0x00 0xE0 = .ok .cls ∧ decodeBytes 0x22 0x10 = .ok (.call 0x210) ∧
  decodeBytes 0x33 0x10 = .ok (.seByte 3 0x10) ∧ decodeBytes 0x9A 0xB0 = .ok (.sneReg 0xA 0xB) ∧
  decodeBytes 0x81 0x2E = .ok (.shlReg 1 2) ∧ decodeBytes 0xB3 0x00 = .ok (.jpV0 3 0x300) ∧
  decodeBytes 0xD1 0x25 = .ok (.drw 1 2 5) ∧ decodeBytes 0xE1 0xA1 = .ok (.sknp 1) ∧
  decodeBytes 0xFF 0x65 = .ok (.ldVxI 0xF) ∧ decodeBytes 0x51 0x21 = .error (.unknown 0x5121)

/-! ## The step -/

/-- A step runs the decoded instruction: where the two bytes at pc decode to `i`, a step of a Running machine is `exec i`
on the state with pc advanced by 2; where they decode to nothing it raises UnknownInstruction after that advance; and a
machine that is not Running does nothing (R76, R78). The fetch passes its check under Wrap12 always, under Fault where
pc + 1 lies in memory (R77, the spec's decision D6). -/
def Obligations.StepRunsTheDecodedInstruction : Prop :=
  ∀ s : State,
    (s.run ≠ .running → step s = .next s) ∧
    (s.run = .running → (s.params.addrPolicy = .wrap12 ∨ s.pc.toNat + 1 < 4096) →
      (∀ i, decodeBytes (s.byteAt (s.pc.toNat % 4096)) (s.byteAt ((s.pc.toNat + 1) % 4096)) = .ok i →
        step s = exec i (s.setPc (s.pc + 2))) ∧
      (∀ op, decodeBytes (s.byteAt (s.pc.toNat % 4096)) (s.byteAt ((s.pc.toNat + 1) % 4096))
          = .error (.unknown op) →
        step s = .next ((s.setPc (s.pc + 2)).raise (.unknownInstruction op))))

/-- Under Fault a fetch outside memory raises BoundsFault with the first address out of range, before the pc advance,
and changes nothing else (R77, the spec's decision D6). -/
def Obligations.FetchOutsideMemoryRaisesBoundsFault : Prop :=
  ∀ s : State, s.run = .running → s.params.addrPolicy = .fault → 4096 ≤ s.pc.toNat + 1 →
    ∃ t, step s = .next t ∧ Raised (.boundsFault (if s.pc.toNat = 0xFFF then 0x1000 else s.pc.toNat)) s t ∧
      ChangesOnly [.history] s t

/-- UnknownInstruction records the fetched word, with pc past it and nothing else changed (R78, R80, R143, R148; the
width of pc and its wrap are the spec's decision D5, log entry 12; the record of the error is log entry 2). -/
def Obligations.UnknownWordIsRecordedPastIt : Prop :=
  ∀ (s : State) (op : Word), s.run = .running → s.fetch = .ok op → decode op = .error (.unknown op) →
    ∃ t, step s = .next t ∧ Raised (.unknownInstruction op) s t ∧ t.pc.toNat = (s.pc.toNat + 2) % 65536 ∧
      ChangesOnly [.pc, .history] s t

/-- Every step answers a next state, and reports at most one error (R141, R150). -/
def Obligations.EveryStepAnswersWithAtMostOneError : Prop :=
  ∀ s : State, ∃ t, step s = .next t ∧ (t.history = s.history ∨ ∃ e, Raised e s t)

/-- A step that returns an error leaves exactly the state of R148: a BoundsFault of the fetch leaves all, every other
error leaves pc advanced by 2 and all else, the stack and the execution state included. -/
def Obligations.StateAfterAnErrorIsPrecise : Prop :=
  ∀ (s t : State) (e : StepError), step s = .next t → Raised e s t →
    (s.params.addrPolicy = .fault ∧ 4096 ≤ s.pc.toNat + 1 → ChangesOnly [.history] s t) ∧
    (¬ (s.params.addrPolicy = .fault ∧ 4096 ≤ s.pc.toNat + 1) →
      t.pc.toNat = (s.pc.toNat + 2) % 65536 ∧ ChangesOnly [.pc, .history] s t)

/-- Where each error of an instruction comes from: StackOverflow from CALL with a full stack, EmptyStack from RET with
an empty one, BoundsFault only under `P_ADDR_POLICY = Fault` or `P_KEY_INDEX = Fault`, UnknownInstruction from none
(R144, R145, R146, R150). -/
def Obligations.ErrorsComeOnlyFromTheirCauses : Prop :=
  ∀ (i : Instr) (s t : State) (e : StepError), s.sp ≤ 16 → exec i s = .next t → Raised e s t →
    match e with
    | .unknownInstruction _ => False
    | .stackOverflow => (∃ nnn, i = .call nnn) ∧ s.sp = 16
    | .emptyStack => i = .ret ∧ s.sp = 0
    | .boundsFault v =>
      (s.params.addrPolicy = .fault ∧ 4096 ≤ v ∧
        ((∃ x, i = .ldB x) ∨ (∃ x, i = .ldIVx x) ∨ (∃ x, i = .ldVxI x) ∨
          ∃ x y n, i = .drw x y n)) ∨
      (s.params.keyIndex = .fault ∧ 16 ≤ v ∧ ∃ x, (i = .skp x ∨ i = .sknp x) ∧ v = (s.reg x).toNat)

/-! ## Whole-machine rules -/

/-- No instruction writes the keypad, the quirks and other construction inputs, or the execution state, whether it
completes or fails (R37, R38, R39, R156). -/
def Obligations.NoInstructionWritesKeysParamsOrRun : Prop :=
  ∀ (i : Instr) (s t : State), exec i s = .next t →
    t.keys = s.keys ∧ t.params = s.params ∧ t.run = s.run

/-- Each part of the state is written only by the instructions the spec names: the screen by 00E0 and Dxyn (R36), memory
by Fx33 and Fx55 (R52), the stack by CALL and RET (R25, R27), DT by Fx15 (R31), ST by Fx18 (R32), I by Annn, Fx1E,
Fx29 and, with the `memory` quirk, Fx55 and Fx65 (R21). -/
def Obligations.OnlyNamedInstructionsWriteEachPart : Prop :=
  ∀ (i : Instr) (s t : State), exec i s = .next t →
    (t.fb ≠ s.fb → i = .cls ∨ ∃ x y n, i = .drw x y n) ∧
    (∀ a, t.byteAt a ≠ s.byteAt a → ∃ x, i = .ldB x ∨ i = .ldIVx x) ∧
    (t.sp ≠ s.sp → i = .ret ∨ ∃ nnn, i = .call nnn) ∧
    (t.stack ≠ s.stack → ∃ nnn, i = .call nnn) ∧
    (t.dt ≠ s.dt → ∃ x, i = .ldDTVx x) ∧
    (t.st ≠ s.st → ∃ x, i = .ldSTVx x) ∧
    (t.i ≠ s.i → (∃ nnn, i = .ldI nnn) ∨ (∃ x, i = .addI x ∨ i = .ldF x) ∨
      (s.params.quirks.memory = true ∧ ∃ x, i = .ldIVx x ∨ i = .ldVxI x))

/-- VF is written only as a flag by the instructions R20 lists (OR, AND and XOR only with `vf_reset`), or as the named
destination register (the spec's decision D21). -/
def Obligations.VfIsWrittenOnlyAsFlagOrDestination : Prop :=
  ∀ (i : Instr) (s t : State), exec i s = .next t → t.reg VF ≠ s.reg VF →
    (∃ x y, (i = .orReg x y ∨ i = .andReg x y ∨ i = .xorReg x y) ∧
      (s.params.quirks.vfReset = true ∨ x = VF)) ∨
    (∃ x y, i = .addReg x y ∨ i = .subReg x y ∨ i = .subnReg x y ∨ i = .shrReg x y ∨ i = .shlReg x y) ∨
    (∃ x y n, i = .drw x y n) ∨
    (∃ nn, i = .ldByte VF nn ∨ i = .addByte VF nn ∨ i = .rnd VF nn) ∨
    (∃ y, i = .ldReg VF y) ∨ i = .ldVxDT VF ∨ i = .ldVxK VF ∨ i = .ldVxI VF

/-- No instruction reads the sound timer: a step of two machines that differ in ST alone leaves two that differ at most
in ST (R32). -/
def Obligations.SoundTimerIsNeverRead : Prop :=
  ∀ (s t : State) (b : Byte), step s = .next t →
    ∃ u, step (s.setST b) = .next u ∧ ChangesOnly [.sound] t u

/-- A stack entry at or above sp is never read: a step of two machines that differ in it alone leaves two that differ at
most in it (R30). -/
def Obligations.UnusedStackEntriesAreNeverRead : Prop :=
  ∀ (s t : State) (k : Nat) (w : Word) (hk : k < 16), s.sp ≤ k → step s = .next t →
    ∃ u, step { s with stack := s.stack.set k w hk } = .next u ∧ ChangesOnly [.stackEntry k] t u

/-- A quirk changes only its own instructions: 8xy1 to 8xy3, 8xy6, 8xyE, Bnnn, Fx55 and Fx65 (R6, R119). -/
def Obligations.QuirksChangeOnlyTheirInstructions : Prop :=
  ∀ (i : Instr) (s t : State) (q : Quirks),
    (∀ x y, i ≠ .orReg x y ∧ i ≠ .andReg x y ∧ i ≠ .xorReg x y ∧ i ≠ .shrReg x y ∧ i ≠ .shlReg x y) →
    (∀ x nnn, i ≠ .jpV0 x nnn) → (∀ x, i ≠ .ldIVx x ∧ i ≠ .ldVxI x) →
    exec i s = .next t →
    ∃ u, exec i { s with params := { s.params with quirks := q } } = .next u ∧ ChangesOnly [.params] t u

/-! ## Invariants -/

/-- The invariant holds after reset. -/
def Obligations.ResetStateMeetsTheInvariant : Prop := State.reset.Inv

/-- Every step keeps the invariant: memory in canonical form, the stack pointer in 0 to 16, legal parameters. -/
def Obligations.EveryStepKeepsTheInvariant : Prop :=
  ∀ s t : State, s.Inv → step s = .next t → t.Inv

/-- Every state a host can reach, by any sequence of operations on a Machine it constructed, meets the invariant
(R25, R41, R42; the canonical form of memory is log entry 5, the order of operations log entry 11). -/
def Obligations.EveryReachableStateMeetsTheInvariant : Prop :=
  ∀ (p : Params) (s t : State) (ops : List HostOp),
    construct p = .next s → hostRun ops s = .next t → t.Inv

/-- Two canonical memories that read alike at every address are the same list: equal memories are equal data. -/
def Obligations.CanonicalMemoryIsUnique : Prop :=
  ∀ (p : Params) (m n : List Host.Cell), Memory.wf p m → Memory.wf p n →
    (∀ a, Memory.read p m a = Memory.read p n a) → m = n

/-! ## Control transfer -/

/-- RET pops its target; on an empty stack it raises EmptyStack and changes nothing else (R97, R145). -/
def Obligations.RetPopsTheReturnAddress : Prop :=
  ∀ s : State,
    (0 < s.sp → s.sp ≤ 16 → ∃ t, exec .ret s = .next t ∧ t.pc = s.stack.toList.getD (s.sp - 1) 0 ∧
      t.sp = s.sp - 1 ∧ ChangesOnly [.pc, .sp] s t) ∧
    (s.sp = 0 → ∃ t, exec .ret s = .next t ∧ Raised .emptyStack s t ∧ ChangesOnly [.history] s t)

/-- CALL pushes the advanced pc and jumps; on a full stack it raises StackOverflow and changes nothing else, pc
included (R29, R99). -/
def Obligations.CallPushesTheAdvancedPc : Prop :=
  ∀ (s : State) (nnn : Address),
    (s.sp < 16 → ∃ t, exec (.call nnn) s = .next t ∧ t.pc.toNat = nnn.toNat ∧ t.sp = s.sp + 1 ∧
      t.stack.toList.getD s.sp 0 = s.pc ∧ ChangesOnly [.pc, .sp, .stackEntry s.sp] s t) ∧
    (s.sp = 16 → ∃ t, exec (.call nnn) s = .next t ∧ Raised .stackOverflow s t ∧ ChangesOnly [.history] s t)

/-- The stack is strictly last in, first out: values pushed while they fit come back in reverse order and leave sp where
it was; a push on a full stack and a pop of an empty one fail (R28). -/
def Obligations.StackIsLastInFirstOut : Prop :=
  ∀ s : State,
    (∀ ws : List Word, s.sp + ws.length ≤ 16 →
      ∃ t u, pushAll ws s = .ok t ∧ t.sp = s.sp + ws.length ∧
        popAll ws.length t = .ok (ws.reverse, u) ∧ u.sp = s.sp) ∧
    (s.sp = 16 → ∀ w, s.push w = .error .stackOverflow) ∧ (s.sp = 0 → s.pop = .error .emptyStack)

/-- JP goes to nnn, JP V0 to nnn plus its base register, V0 or with `jumping` Vx, without wrap (R98, R104). -/
def Obligations.JumpsSetThePc : Prop :=
  ∀ (s : State) (x : Reg) (nnn : Address),
    (∃ t, exec (.jp nnn) s = .next t ∧ t.pc.toNat = nnn.toNat ∧ ChangesOnly [.pc] s t) ∧
    (∃ t, exec (.jpV0 x nnn) s = .next t ∧
      t.pc.toNat = (s.reg (if s.params.quirks.jumping then x else 0)).toNat + nnn.toNat ∧
      ChangesOnly [.pc] s t)

/-- The four register skips pass over one word where their comparison holds (R96, R100 to R103; the width of
pc is the spec's decision D5). -/
def Obligations.SkipsCompareRegisters : Prop :=
  ∀ (s : State) (x y : Reg) (nn : Byte),
    (∃ t, exec (.seByte x nn) s = .next t ∧
      t.pc.toNat = skipTarget s.pc.toNat (s.reg x = nn) ∧ ChangesOnly [.pc] s t) ∧
    (∃ t, exec (.sneByte x nn) s = .next t ∧
      t.pc.toNat = skipTarget s.pc.toNat (s.reg x ≠ nn) ∧ ChangesOnly [.pc] s t) ∧
    (∃ t, exec (.seReg x y) s = .next t ∧
      t.pc.toNat = skipTarget s.pc.toNat (s.reg x = s.reg y) ∧ ChangesOnly [.pc] s t) ∧
    (∃ t, exec (.sneReg x y) s = .next t ∧
      t.pc.toNat = skipTarget s.pc.toNat (s.reg x ≠ s.reg y) ∧ ChangesOnly [.pc] s t)

/-- The key skips test the key Vx names; above 0xF the index is masked under Mask4 and raises BoundsFault under Fault
(R134, R135, R136; the treatment above 0xF is the spec's decision D9). -/
def Obligations.KeySkipsTestTheNamedKey : Prop :=
  ∀ (s : State) (x : Reg),
    ((s.reg x).toNat ≤ 15 ∨ s.params.keyIndex = .mask4 →
      (∃ t, exec (.skp x) s = .next t ∧
        t.pc.toNat = skipTarget s.pc.toNat (s.keyIsDown ((s.reg x).toNat % 16)) ∧ ChangesOnly [.pc] s t) ∧
      (∃ t, exec (.sknp x) s = .next t ∧
        t.pc.toNat = skipTarget s.pc.toNat (!s.keyIsDown ((s.reg x).toNat % 16)) ∧ ChangesOnly [.pc] s t)) ∧
    (15 < (s.reg x).toNat → s.params.keyIndex = .fault →
      ∀ i, i = .skp x ∨ i = .sknp x →
        ∃ t, exec i s = .next t ∧ Raised (.boundsFault (s.reg x).toNat) s t ∧ ChangesOnly [.history] s t)

/-! ## Registers -/

/-- The loads of a register: from a byte, a register, the delay timer; VF is a destination like any other
(R107, R109, R137; the spec's decision D21). -/
def Obligations.LoadsWriteOneRegister : Prop :=
  ∀ (s : State) (x y : Reg) (nn : Byte),
    (∃ t, exec (.ldByte x nn) s = .next t ∧ t.reg x = nn ∧ ChangesOnly [.reg x] s t) ∧
    (∃ t, exec (.ldReg x y) s = .next t ∧ t.reg x = s.reg y ∧ ChangesOnly [.reg x] s t) ∧
    (∃ t, exec (.ldVxDT x) s = .next t ∧ t.reg x = s.dt ∧ ChangesOnly [.reg x] s t)

/-- ADD Vx, nn wraps mod 256 and sets no flag (R108). -/
def Obligations.AddByteWrapsWithoutFlag : Prop :=
  ∀ (s : State) (x : Reg) (nn : Byte), ∃ t, exec (.addByte x nn) s = .next t ∧
    (t.reg x).toNat = ((s.reg x).toNat + nn.toNat) % 256 ∧ ChangesOnly [.reg x] s t

/-- OR, AND and XOR, bit by bit; with `vf_reset` VF ends 0, as the destination too; without it VF is untouched unless it
is the destination (R110, R111, R112). -/
def Obligations.BitwiseOperationsAndVfReset : Prop :=
  ∀ (s : State) (x y : Reg) (i : Instr) (f : Bool → Bool → Bool),
    (i = .orReg x y ∧ f = or) ∨ (i = .andReg x y ∧ f = and) ∨ (i = .xorReg x y ∧ f = xor) →
    ∃ t, exec i s = .next t ∧
      (s.params.quirks.vfReset = false → ChangesOnly [.reg x] s t ∧
        ∀ k < 8, (t.reg x).getLsbD k = f ((s.reg x).getLsbD k) ((s.reg y).getLsbD k)) ∧
      (s.params.quirks.vfReset = true → ChangesOnly [.reg x, .reg VF] s t ∧ t.reg VF = 0 ∧
        (x ≠ VF → ∀ k < 8, (t.reg x).getLsbD k = f ((s.reg x).getLsbD k) ((s.reg y).getLsbD k)))

/-- ADD Vx, Vy: the sum mod 256, and VF the carry (R106, R113; with x = F the spec's decision D8 says which is left). -/
def Obligations.AddRegSetsCarry : Prop :=
  ∀ (s : State) (x y : Reg), ∃ t, exec (.addReg x y) s = .next t ∧
    ResultAndFlag x (((s.reg x).toNat + (s.reg y).toNat) % 256)
      (if (s.reg x).toNat + (s.reg y).toNat > 255 then 1 else 0) s t

/-- SUB and SUBN: the difference, wrapped on borrow, and VF the no-borrow flag, 1 on equality (R106, R114, R116; with
x = F the spec's decision D8 says which is left). -/
def Obligations.SubtractionsSetNoBorrow : Prop :=
  ∀ (s : State) (x y : Reg),
    (∃ t, exec (.subReg x y) s = .next t ∧
      ResultAndFlag x (((s.reg x).toNat + 256 - (s.reg y).toNat) % 256)
        (if (s.reg y).toNat ≤ (s.reg x).toNat then 1 else 0) s t) ∧
    (∃ t, exec (.subnReg x y) s = .next t ∧
      ResultAndFlag x (((s.reg y).toNat + 256 - (s.reg x).toNat) % 256)
        (if (s.reg x).toNat ≤ (s.reg y).toNat then 1 else 0) s t)

/-- SHR and SHL: the source, Vx with `shifting` and Vy without, shifted by one, and VF the bit lost (R106, R115, R117;
with x = F the spec's decision D8 says which is left). -/
def Obligations.ShiftsSetTheLostBit : Prop :=
  ∀ (s : State) (x y : Reg) (v : Nat),
    v = (s.reg (if s.params.quirks.shifting then x else y)).toNat →
    (∃ t, exec (.shrReg x y) s = .next t ∧ ResultAndFlag x (v / 2) (v % 2) s t) ∧
    (∃ t, exec (.shlReg x y) s = .next t ∧ ResultAndFlag x (v * 2 % 256) (v / 128) s t)

/-- RND masks the byte drawn, whatever it is, and makes one draw; with nn = 0 the result is 0 (R118). The draw count is
the model's own field (log entry 3). -/
def Obligations.RandomByteIsMasked : Prop :=
  ∀ (s : State) (x : Reg) (nn : Byte), ∃ t, exec (.rnd x nn) s = .next t ∧
    t.reg x = nn &&& Config.drawByte s.draws ∧ t.draws = s.draws + 1 ∧ (nn = 0 → t.reg x = 0) ∧
    ChangesOnly [.reg x, .draws] s t

/-! ## The index register and memory -/

/-- LD I, ADD I and LD F set I, mod 2^16, unmasked and with no flag (R121, R122, R123; the wrap of ADD I is the spec's
decision D7). -/
def Obligations.IndexInstructionsSetI : Prop :=
  ∀ (s : State) (x : Reg) (nnn : Address),
    (∃ t, exec (.ldI nnn) s = .next t ∧ t.i.toNat = nnn.toNat ∧ ChangesOnly [.index] s t) ∧
    (∃ t, exec (.addI x) s = .next t ∧ t.i.toNat = (s.i.toNat + (s.reg x).toNat) % 65536 ∧
      ChangesOnly [.index] s t) ∧
    (∃ t, exec (.ldF x) s = .next t ∧
      t.i.toNat = (s.params.fontBase.toNat + 5 * (s.reg x).toNat) % 65536 ∧ ChangesOnly [.index] s t)

/-- LD B stores the hundreds, tens and units digits at I, I + 1, I + 2 and changes no other byte, nor I (R124). -/
def Obligations.BcdStoresThreeDigits : Prop :=
  ∀ (s : State) (x : Reg), s.transferAllowed 3 →
    ∃ t, exec (.ldB x) s = .next t ∧
      (t.byteAt (s.i.toNat % 4096)).toNat = (s.reg x).toNat / 100 ∧
      (t.byteAt ((s.i.toNat + 1) % 4096)).toNat = (s.reg x).toNat / 10 % 10 ∧
      (t.byteAt ((s.i.toNat + 2) % 4096)).toNat = (s.reg x).toNat % 10 ∧
      ChangesOnly ((s.transferBytes 3).map .byte) s t

/-- LD [I], Vx stores V0 to Vx at I on, changes no other byte, and with `memory` advances I past them (R125). -/
def Obligations.RegisterDumpStoresV0ToVx : Prop :=
  ∀ (s : State) (x : Reg), s.transferAllowed (x.val + 1) →
    ∃ t, exec (.ldIVx x) s = .next t ∧
      (∀ r : Reg, r ≤ x → t.byteAt ((s.i.toNat + r.val) % 4096) = s.reg r) ∧
      t.i.toNat = s.indexAfter (x.val + 1) ∧
      ChangesOnly (.index :: (s.transferBytes (x.val + 1)).map .byte) s t

/-- LD Vx, [I] loads V0 to Vx from I on, leaves the registers above x, and with `memory` advances I (R126). -/
def Obligations.RegisterLoadReadsV0ToVx : Prop :=
  ∀ (s : State) (x : Reg), s.transferAllowed (x.val + 1) →
    ∃ t, exec (.ldVxI x) s = .next t ∧
      (∀ r : Reg, r ≤ x → t.reg r = s.byteAt ((s.i.toNat + r.val) % 4096)) ∧
      t.i.toNat = s.indexAfter (x.val + 1) ∧
      ChangesOnly (.index :: ((List.finRange 16).filter (· ≤ x)).map .reg) s t

/-- A transfer that leaves memory under Fault raises BoundsFault at its smallest address out of range and changes
nothing else: Fx33, Fx55, Fx65 and Dxyn (R57, R120, the spec's decisions D6 and D24). -/
def Obligations.DeniedTransfersChangeNothing : Prop :=
  ∀ (s : State) (x y : Reg) (n : Nibble) (i : Instr) (count : Nat),
    (i = .ldB x ∧ count = 3) ∨ (i = .ldIVx x ∧ count = x.val + 1) ∨ (i = .ldVxI x ∧ count = x.val + 1) ∨
      (i = .drw x y n ∧ count = n.toNat) →
    s.params.addrPolicy = .fault → 0 < count → 4096 < s.i.toNat + count →
    ∃ t, exec i s = .next t ∧
      Raised (.boundsFault (if 4096 ≤ s.i.toNat then s.i.toNat else 4096)) s t ∧ ChangesOnly [.history] s t

/-- What a register dump stored, a register load of the same registers at the same I brings back, whatever the
registers hold meanwhile (R61, R125, R126). -/
def Obligations.LoadAfterDumpRestoresRegisters : Prop :=
  ∀ (s t : State) (x r : Reg) (v : Vector Byte 16), s.transferAllowed (x.val + 1) → r ≤ x →
    exec (.ldIVx x) s = .next t →
    ∃ u, exec (.ldVxI x) { t with v := v, i := s.i } = .next u ∧ u.reg r = s.reg r

/-- A word stored by Fx55 where pc points is the word the next step runs (R64, R175). -/
def Obligations.StoredWordIsFetchedAtOnce : Prop :=
  ∀ (s t : State) (i : Instr), s.run = .running → s.i.toNat = s.pc.toNat → s.transferAllowed 2 →
    decodeBytes (s.reg 0) (s.reg 1) = .ok i → exec (.ldIVx 1) s = .next t →
    step t = exec i (t.setPc (t.pc + 2))

/-! ## The display -/

/-- CLS clears every pixel and leaves VF and everything else (R128). -/
def Obligations.ClearScreenClearsEveryPixel : Prop :=
  ∀ s : State, ∃ t, exec .cls s = .next t ∧ (∀ row col, pixelAt t.fb row col = false) ∧
    ChangesOnly [.screen] s t

/-- DRW, pixel by pixel: every pixel of the screen is XORed with the sprite bit that falls on it; what falls off the
screen is dropped; VF is 1 exactly where a lit pixel is turned off, computed afresh; nothing else changes, I included
(R127, R129 to R133; the corner of row 0 and column 0 is the spec's decision D27, and the old VF as a coordinate where x
or y is VF its decision D22, log entry 12). The model's blitter is R129's loop. -/
def Obligations.DrawXorsTheSpriteAndReportsCollision : Prop :=
  ∀ (s : State) (x y : Reg) (n : Nibble), s.transferAllowed n.toNat →
    ∃ t, exec (.drw x y n) s = .next t ∧
      (∀ row col, row < 32 → col < 64 →
        pixelAt t.fb row col = (pixelAt s.fb row col ^^ s.spriteBit x y n row col)) ∧
      (s.collides x y n → t.reg VF = 1) ∧ (¬ s.collides x y n → t.reg VF = 0) ∧
      ChangesOnly [.reg VF, .screen] s t

/-- Drawing a sprite twice at the same place restores the screen, and leaves only VF changed (R129, R131). -/
def Obligations.DrawingTwiceRestoresTheScreen : Prop :=
  ∀ (s t u : State) (x y : Reg) (n : Nibble), x ≠ VF → y ≠ VF → s.transferAllowed n.toNat →
    exec (.drw x y n) s = .next t → exec (.drw x y n) t = .next u → ChangesOnly [.reg VF] s u

/-! ## The keypad and the timers -/

/-- LD Vx, K: with no key down pc goes back by 2 and nothing else changes; with keys down Vx becomes one of them, as a
draw among them (R138, the spec's decision D10). The draw count is the model's own field (log entry 3). -/
def Obligations.KeyWaitTakesAPressedKey : Prop :=
  ∀ (s : State) (x : Reg),
    ((∀ k : Reg, s.keys[k] = false) → ∃ t, exec (.ldVxK x) s = .next t ∧
      t.pc.toNat = (s.pc.toNat + 65534) % 65536 ∧ ChangesOnly [.pc] s t) ∧
    ((∃ k : Reg, s.keys[k] = true) → ∃ t, exec (.ldVxK x) s = .next t ∧
      (∃ k : Reg, s.keys[k] = true ∧ (t.reg x).toNat = k.val) ∧ t.draws = s.draws + 1 ∧
      ChangesOnly [.reg x, .draws] s t)

/-- A machine that waits for a key and is given none stays where it is, over any number of steps (R138, R176). -/
def Obligations.KeyWaitStallsWithoutAKey : Prop :=
  ∀ (s : State) (x : Reg) (n : Nat), s.run = .running → s.fetch = .ok (encode (.ldVxK x)) →
    (∀ k : Reg, s.keys[k] = false) → Sys2Proof.core.run n s = .next s

/-- LD DT and LD ST set their timer and nothing else (R139, R140). -/
def Obligations.TimerLoadsSetTheTimers : Prop :=
  ∀ (s : State) (x : Reg),
    (∃ t, exec (.ldDTVx x) s = .next t ∧ t.dt = s.reg x ∧ ChangesOnly [.delay] s t) ∧
    (∃ t, exec (.ldSTVx x) s = .next t ∧ t.st = s.reg x ∧ ChangesOnly [.sound] s t)

/-! ## The host interface -/

/-- `n` ticks count both timers down by `n`, saturating at 0, and change nothing else; a gated machine that is not Running
ignores them (R157, R158; the gate is the spec's decision D17). -/
def Obligations.TicksCountTheTimersDown : Prop :=
  ∀ (s : State) (n : Nat),
    (s.params.timerGated = false ∨ s.run = .running →
      (Nat.iterate onTimer n s).dt.toNat = s.dt.toNat - n ∧
      (Nat.iterate onTimer n s).st.toNat = s.st.toNat - n ∧
      ChangesOnly [.delay, .sound] s (Nat.iterate onTimer n s)) ∧
    (s.params.timerGated = true → s.run ≠ .running → Nat.iterate onTimer n s = s)

/-- `terminate()` and `toggle_execution()` change the execution state as R44 and R45 say, and nothing else. -/
def Obligations.LifecycleOperationsChangeRun : Prop :=
  ∀ s : State,
    (∃ t, hostCall .terminate s = .next (t, .none) ∧ t.run = .terminated ∧ ChangesOnly [.run] s t) ∧
    (∃ t, hostCall .toggleExecution s = .next (t, .none) ∧ ChangesOnly [.run] s t ∧
      (s.run = .running → t.run = .paused) ∧ (s.run = .paused → t.run = .running) ∧
      (s.run = .terminated → t.run = .terminated))

/-- A Terminated machine executes nothing, keeps its state but for keys and timers, and stays Terminated under every
sequence of operations without a reset (R156, R169). -/
def Obligations.TerminatedUntilReset : Prop :=
  ∀ (s t : State) (ops : List HostOp), s.run = .terminated → HostOp.reset ∉ ops → hostRun ops s = .next t →
    t.run = .terminated ∧ ∀ p, (∀ q ∈ [Part.keypad, .delay, .sound], p ≠ q) → Unchanged s t p

/-- The host's reads change nothing: the execution state, whether ST is above 0, and the framebuffer as 2048 bytes of
0 or 1 in row-major order (R46, R159). -/
def Obligations.HostReadsReportTheState : Prop :=
  ∀ s : State,
    hostCall .getState s = .next (s, .runState s.run) ∧
    (∃ b, hostCall .isAudioPlaying s = .next (s, .audio b) ∧ (b = true ↔ 0 < s.st.toNat)) ∧
    (∃ cells, hostCall .getFramebuffer s = .next (s, .framebuffer cells) ∧ cells.length = 2048 ∧
      ∀ row col, row < 32 → col < 64 → cells.getD (row * 64 + col) 0 = if pixelAt s.fb row col then 1 else 0)

/-- `key_down` and `key_up` set their key and change no other; a code above 0xF is refused (R43; the refusal is the
spec's decision D23). -/
def Obligations.KeyEventsSetOneKey : Prop :=
  ∀ (s : State) (code : Nat),
    (code ≤ 15 → ∀ (op : HostOp) (down : Bool),
      (op = .keyDown code ∧ down = true) ∨ (op = .keyUp code ∧ down = false) →
      ∃ t, hostCall op s = .next (t, .none) ∧ t.keyIsDown code = down ∧
        (∀ k, k ≠ code → t.keyIsDown k = s.keyIsDown k) ∧ ChangesOnly [.keypad] s t) ∧
    (15 < code → hostCall (.keyDown code) s = .refused (.keyCodeOutOfRange code) ∧
      hostCall (.keyUp code) s = .refused (.keyCodeOutOfRange code))

/-- `construct` fails exactly for a ROM longer than 3584 bytes, with its length (R147, R164); a font that does not lie
below the program base is refused (R172, the spec's decision D15). -/
def Obligations.ConstructChecksItsInputs : Prop :=
  ∀ p : Params,
    (3584 < p.rom.length ↔ construct p = .fault (.romTooBig p.rom.length)) ∧
    (p.rom.length ≤ 3584 → 0x200 < p.fontBase.toNat + 80 →
      construct p = .refused (.fontBaseOutOfRange p.fontBase)) ∧
    (p.rom.length ≤ 3584 → p.fontBase.toNat + 80 ≤ 0x200 → ∃ s, construct p = .next s ∧ s.params = p)

/-- Memory after construction: the ROM verbatim at 0x200, the font at its base, 0 elsewhere (R34, R58, R67; the 0 is
the spec's decision D13). -/
def Obligations.ConstructedMemoryHoldsRomAndFont : Prop :=
  ∀ (p : Params) (s : State), construct p = .next s →
    (∀ k, k < p.rom.length → s.byteAt (0x200 + k) = p.rom.getD k 0) ∧
    (∀ k, k < 80 → s.byteAt (p.fontBase.toNat + k) = p.fontData.toList.getD k 0) ∧
    (∀ a, ¬ (0x200 ≤ a ∧ a < 0x200 + p.rom.length) →
      ¬ (p.fontBase.toNat ≤ a ∧ a < p.fontBase.toNat + 80) → s.byteAt a = 0)

/-- A constructed Machine starts with every register, timer, stack entry and pixel 0, no key down, pc at 0x200, in the
execution state P_INITIAL_RUN_STATE (R48, R166, R173). -/
def Obligations.ConstructedStateIsZeroed : Prop :=
  ∀ (p : Params) (s : State), construct p = .next s →
    (∀ r, s.reg r = 0) ∧ s.i = 0 ∧ s.pc = 0x200 ∧ s.sp = 0 ∧ (∀ k, s.stack.toList.getD k 0 = 0) ∧
    s.dt = 0 ∧ s.st = 0 ∧ (∀ row col, pixelAt s.fb row col = false) ∧ (∀ k, s.keyIsDown k = false) ∧
    (s.run = .running ↔ p.initialRun = .running) ∧ (s.run = .paused ↔ p.initialRun = .paused)

/-- `reset()` gives back, from any state, the state just after construction with the retained inputs, Running; it is
idempotent (R167 to R171). The model's own draw count and record of errors go on (log entry 4). -/
def Obligations.ResetRestoresTheConstructedState : Prop :=
  ∀ (p : Params) (s s0 : State), construct p = .next s0 → s.params = p →
    ∃ t, hostCall .reset s = .next (t, .none) ∧ t.run = .running ∧
      ChangesOnly [.run, .draws, .history] s0 t ∧ t.draws = s.draws ∧ t.history = s.history ∧
      hostCall .reset t = .next (t, .none)

/-- The record of errors is never cleared, by any sequence of host operations (R154). -/
def Obligations.ErrorHistoryOnlyGrows : Prop :=
  ∀ (ops : List HostOp) (s t : State), hostRun ops s = .next t → ∃ es, t.history = s.history ++ es

/-- `step()` reports Ok, or the one error it recorded (R141, R153). -/
def Obligations.StepResultReportsTheError : Prop :=
  ∀ s : State, ∃ t r, hostCall .step s = .next (t, r) ∧
    ((r = .ok ∧ t.history = s.history) ∨ ∃ e, r = .error e ∧ Raised e s t)

/-! ## Ends of a run, and the model's own conventions -/

/-- A machine at a self-jump stays there, unchanged, over any number of steps (R98, R178). -/
def Obligations.SelfJumpStaysForEver : Prop :=
  ∀ (s : State) (n : Nat), s.selfJump = true → Sys2Proof.core.run n s = .next s

/-- The model's own: a state given an instruction's word runs exactly it in the next step (log entry 8). -/
def Obligations.PlacedWordRunsNext : Prop :=
  ∀ (s : State) (w : Nat) (i : Instr), decodeTableWord 16 w = some i →
    step (s.withFetchWord 16 w) = exec i ((s.withFetchWord 16 w).setPc ((s.withFetchWord 16 w).pc + 2))
end

