-- ==== Sys2Proof/Laws/Decode.lean ====
section
/-! SUPPORT. The fields of an encoded word are the fields it was packed from (spec/30_encoding.md R71, R85), and every
encoded word lies in the row of R79 its instruction belongs to. -/

namespace Sys2Proof

@[simp] theorem regOf_nibbleOf (r : Reg) : regOf (nibbleOf r) = r := by
  revert r; decide

@[simp] theorem nibbleOf_regOf (b : Nibble) : nibbleOf (regOf b) = b := by
  revert b; decide

@[simp] theorem toNat_nibbleOf (r : Reg) : (nibbleOf r).toNat = r.val := by
  revert r; decide

/-! ### Words and fields as numbers -/

/-- Concatenation as arithmetic. -/
theorem toNat_append_eq {m n : Nat} (a : BitVec m) (b : BitVec n) :
    (a ++ b).toNat = a.toNat * 2 ^ n + b.toNat := by
  rw [BitVec.toNat_append, ← Nat.shiftLeft_add_eq_or_of_lt b.isLt, Nat.shiftLeft_eq]

theorem toNat_packAddr (h : Nibble) (nnn : Address) :
    (packAddr h nnn).toNat = h.toNat * 4096 + nnn.toNat := by
  simp only [packAddr, toNat_append_eq]; omega

theorem toNat_packByte (h : Nibble) (x : Reg) (nn : Byte) :
    (packByte h x nn).toNat = h.toNat * 4096 + x.val * 256 + nn.toNat := by
  simp only [packByte, toNat_append_eq, toNat_nibbleOf]; omega

theorem toNat_packRegs (h : Nibble) (x y : Reg) (n : Nibble) :
    (packRegs h x y n).toNat = h.toNat * 4096 + x.val * 256 + y.val * 16 + n.toNat := by
  simp only [packRegs, toNat_append_eq, toNat_nibbleOf]; omega

theorem toNat_header (op : Word) : (header op).toNat = op.toNat / 4096 := by
  simp only [header, BitVec.extractLsb'_toNat, Nat.shiftRight_eq_div_pow]; have := op.isLt; omega

theorem val_fieldX (op : Word) : (fieldX op).val = op.toNat / 256 % 16 := by
  simp only [fieldX, regOf, nibbleX, BitVec.extractLsb'_toNat, Nat.shiftRight_eq_div_pow]

theorem val_fieldY (op : Word) : (fieldY op).val = op.toNat / 16 % 16 := by
  simp only [fieldY, regOf, nibbleY, BitVec.extractLsb'_toNat, Nat.shiftRight_eq_div_pow]

theorem toNat_fieldN (op : Word) : (fieldN op).toNat = op.toNat % 16 := by
  simp [fieldN, BitVec.extractLsb'_toNat]

theorem toNat_fieldNN (op : Word) : (fieldNN op).toNat = op.toNat % 256 := by
  simp [fieldNN, BitVec.extractLsb'_toNat]

theorem toNat_fieldNNN (op : Word) : (fieldNNN op).toNat = op.toNat % 4096 := by
  simp [fieldNNN, BitVec.extractLsb'_toNat]

/-! ### The fields of a packed word -/

section fields
variable (h : Nibble) (x y : Reg) (n : Nibble) (nn : Byte) (nnn : Address)

@[simp] theorem header_packAddr : header (packAddr h nnn) = h := by
  apply BitVec.eq_of_toNat_eq; rw [toNat_header, toNat_packAddr]; have := nnn.isLt; omega

@[simp] theorem fieldNNN_packAddr : fieldNNN (packAddr h nnn) = nnn := by
  apply BitVec.eq_of_toNat_eq; rw [toNat_fieldNNN, toNat_packAddr]; have := nnn.isLt; omega

/-- The `x` of a `Bnnn` word is the top nibble of its address (R73). -/
theorem fieldX_packAddr : (fieldX (packAddr h nnn)).val = nnn.toNat / 256 := by
  rw [val_fieldX, toNat_packAddr]; have := nnn.isLt; omega

@[simp] theorem header_packByte : header (packByte h x nn) = h := by
  apply BitVec.eq_of_toNat_eq; rw [toNat_header, toNat_packByte]; have := nn.isLt; omega

@[simp] theorem fieldX_packByte : fieldX (packByte h x nn) = x := by
  apply Fin.ext; rw [val_fieldX, toNat_packByte]; have := nn.isLt; omega

@[simp] theorem fieldNN_packByte : fieldNN (packByte h x nn) = nn := by
  apply BitVec.eq_of_toNat_eq; rw [toNat_fieldNN, toNat_packByte]; have := nn.isLt; omega

@[simp] theorem header_packRegs : header (packRegs h x y n) = h := by
  apply BitVec.eq_of_toNat_eq; rw [toNat_header, toNat_packRegs]; have := n.isLt; omega

@[simp] theorem fieldX_packRegs : fieldX (packRegs h x y n) = x := by
  apply Fin.ext; rw [val_fieldX, toNat_packRegs]; have := n.isLt; omega

@[simp] theorem fieldY_packRegs : fieldY (packRegs h x y n) = y := by
  apply Fin.ext; rw [val_fieldY, toNat_packRegs]; have := n.isLt; omega

@[simp] theorem fieldN_packRegs : fieldN (packRegs h x y n) = n := by
  apply BitVec.eq_of_toNat_eq; rw [toNat_fieldN, toNat_packRegs]; have := n.isLt; omega

end fields

/-! ### A word is the fields it decodes into -/

theorem packAddr_fields (op : Word) : packAddr (header op) (fieldNNN op) = op := by
  apply BitVec.eq_of_toNat_eq; rw [toNat_packAddr, toNat_header, toNat_fieldNNN]; omega

theorem packByte_fields (op : Word) : packByte (header op) (fieldX op) (fieldNN op) = op := by
  apply BitVec.eq_of_toNat_eq; rw [toNat_packByte, toNat_header, val_fieldX, toNat_fieldNN]; omega

theorem packRegs_fields (op : Word) : packRegs (header op) (fieldX op) (fieldY op) (fieldN op) = op := by
  apply BitVec.eq_of_toNat_eq
  rw [toNat_packRegs, toNat_header, val_fieldX, val_fieldY, toNat_fieldN]; omega

/-- The bytes of a word put together again (R55, R77). -/
@[simp] theorem wordOfBytes_bytes (op : Word) : wordOfBytes (highByte op) (lowByte op) = op := by
  apply BitVec.eq_of_toNat_eq
  simp only [wordOfBytes, highByte, lowByte, toNat_append_eq, BitVec.extractLsb'_toNat,
    Nat.shiftRight_eq_div_pow]
  have := op.isLt; omega

/-! ### The masks of R79 keep the header and the sub-selector -/

section masks
variable (h : Nibble) (x y : Reg) (n : Nibble) (nn : Byte) (nnn : Address)

theorem packAddr_mask : packAddr h nnn &&& 0xF000 = packAddr h 0 := by
  apply BitVec.eq_of_getLsbD_eq; intro i hi
  rw [packAddr, packAddr, BitVec.getLsbD_and, BitVec.getLsbD_append, BitVec.getLsbD_append]
  interval_cases i <;> simp

theorem packByte_mask_header : packByte h x nn &&& 0xF000 = packAddr h 0 := by
  apply BitVec.eq_of_getLsbD_eq; intro i hi
  rw [packAddr, packByte, BitVec.getLsbD_and, BitVec.getLsbD_append, BitVec.getLsbD_append,
    BitVec.getLsbD_append]
  interval_cases i <;> simp

theorem packByte_mask_low : packByte h x nn &&& 0xF0FF = packByte h 0 nn := by
  apply BitVec.eq_of_getLsbD_eq; intro i hi
  simp only [packByte, BitVec.getLsbD_and, BitVec.getLsbD_append]
  interval_cases i <;> simp [nibbleOf]

theorem packRegs_mask_header : packRegs h x y n &&& 0xF000 = packAddr h 0 := by
  apply BitVec.eq_of_getLsbD_eq; intro i hi
  simp only [packAddr, packRegs, BitVec.getLsbD_and, BitVec.getLsbD_append]
  interval_cases i <;> simp

theorem packRegs_mask_low : packRegs h x y n &&& 0xF00F = packRegs h 0 0 n := by
  apply BitVec.eq_of_getLsbD_eq; intro i hi
  simp only [packRegs, BitVec.getLsbD_and, BitVec.getLsbD_append]
  interval_cases i <;> simp [nibbleOf]

end masks

end Sys2Proof
end

