-- ==== Sys2Proof/Laws/Memory.lean ====
section
/-! SUPPORT. The laws of memory: read after write, and that every operation keeps the canonical form. -/

namespace Sys2Proof.Machine

variable (p : Params) (m : List Host.Cell)

/-! ### Read after write (R61) -/

theorem Memory.read_insert (a k : Nat) (b : Byte) :
    Memory.read p (Memory.insert a b m) k = if a = k then b else Memory.read p m k := by
  induction m with
  | nil => by_cases h : a = k <;> simp [Memory.insert, Memory.read, h]
  | cons c rest ih =>
    simp only [Memory.insert]
    split
    · simp [Memory.read]
    · split
      · rename_i h; subst h
        by_cases h : c.1 = k <;> simp [Memory.read, h]
      · simp only [Memory.read, ih]
        by_cases hc : c.1 = k <;> by_cases ha : a = k <;> simp_all

theorem Memory.read_remove (a k : Nat) :
    Memory.read p (Memory.remove a m) k = if a = k then initialByte p k else Memory.read p m k := by
  induction m with
  | nil => simp [Memory.remove, Memory.read]
  | cons c rest ih =>
    simp only [Memory.remove]
    split
    · rename_i h
      rw [ih]; by_cases ha : a = k <;> simp_all [Memory.read]
    · simp only [Memory.read, ih]
      by_cases hc : c.1 = k <;> by_cases ha : a = k <;> simp_all

/-- A read gives the byte last written at its address, and a write leaves every other address alone. -/
theorem Memory.read_write (a k : Nat) (b : Byte) :
    Memory.read p (Memory.write p m a b) k = if a = k then b else Memory.read p m k := by
  unfold Memory.write
  split
  · rename_i h; rw [Memory.read_remove]; split <;> simp_all
  · exact Memory.read_insert p m a k b

/-! ### The canonical form -/

theorem Memory.mem_insert {m : List Host.Cell} {a : Nat} {b : Byte} {c : Host.Cell}
    (h : c ∈ Memory.insert a b m) : c = (a, b) ∨ c ∈ m := by
  induction m with
  | nil => simpa [Memory.insert] using h
  | cons d rest ih =>
    simp only [Memory.insert] at h
    split at h
    · simpa using h
    · split at h
      · simp only [List.mem_cons] at h ⊢; tauto
      · simp only [List.mem_cons] at h ⊢
        rcases h with h | h
        · exact .inr (.inl h)
        · rcases ih h with h | h
          · exact .inl h
          · exact .inr (.inr h)

theorem Memory.mem_remove {m : List Host.Cell} {a : Nat} {c : Host.Cell}
    (h : c ∈ Memory.remove a m) : c ∈ m := by
  induction m with
  | nil => exact absurd h List.not_mem_nil
  | cons d rest ih =>
    simp only [Memory.remove] at h
    split at h
    · exact List.mem_cons_of_mem _ (ih h)
    · simp only [List.mem_cons] at h ⊢
      exact h.imp id ih

theorem Memory.ascending_insert {m : List Host.Cell} (a : Nat) (b : Byte)
    (h : m.Pairwise (fun c d => c.1 < d.1)) : (Memory.insert a b m).Pairwise (fun c d => c.1 < d.1) := by
  induction m with
  | nil => simp [Memory.insert]
  | cons d rest ih =>
    have hd := List.pairwise_cons.1 h
    simp only [Memory.insert]
    split
    · rename_i hlt
      refine List.pairwise_cons.2 ⟨fun c hc => ?_, h⟩
      rcases List.mem_cons.1 hc with rfl | hc
      · exact hlt
      · exact lt_trans hlt (hd.1 c hc)
    · split
      · rename_i heq
        exact List.pairwise_cons.2 ⟨fun c hc => heq ▸ hd.1 c hc, hd.2⟩
      · refine List.pairwise_cons.2 ⟨fun c hc => ?_, ih hd.2⟩
        rcases Memory.mem_insert hc with rfl | hc
        · show d.1 < a; omega
        · exact hd.1 c hc

theorem Memory.ascending_remove {m : List Host.Cell} (a : Nat)
    (h : m.Pairwise (fun c d => c.1 < d.1)) : (Memory.remove a m).Pairwise (fun c d => c.1 < d.1) := by
  induction m with
  | nil => simp [Memory.remove]
  | cons d rest ih =>
    have hd := List.pairwise_cons.1 h
    simp only [Memory.remove]
    split
    · exact ih hd.2
    · exact List.pairwise_cons.2 ⟨fun c hc => hd.1 c (Memory.mem_remove hc), ih hd.2⟩

/-- A write inside memory keeps the canonical form. -/
theorem Memory.wf_write {p : Params} {m : List Host.Cell} {a : Nat} (b : Byte)
    (h : Memory.wf p m) (ha : a < memorySize) : Memory.wf p (Memory.write p m a b) := by
  unfold Memory.write
  split
  · exact ⟨Memory.ascending_remove a h.1, fun c hc => h.2 c (Memory.mem_remove hc)⟩
  · rename_i hb
    refine ⟨Memory.ascending_insert a b h.1, fun c hc => ?_⟩
    rcases Memory.mem_insert hc with rfl | hc
    · exact ⟨ha, hb⟩
    · exact h.2 c hc

/-- Memory after construction and after reset is in canonical form, whatever the parameters. -/
theorem Memory.wf_initial (run : RunState) : Memory.wf p (State.initial p run).mem :=
  ⟨List.Pairwise.nil, fun _ h => absurd h List.not_mem_nil⟩

/-- The memory of `State.reset` is in canonical form. -/
theorem reset_memory_wf : Memory.wf State.reset.params State.reset.mem := Memory.wf_initial _ _

/-- The byte an address below everything listed reads as is its construction value. -/
theorem Memory.read_unlisted {m : List Host.Cell} {a : Nat} (h : ∀ c ∈ m, c.1 ≠ a) :
    Memory.read p m a = initialByte p a := by
  induction m with
  | nil => rfl
  | cons c rest ih =>
    rw [Memory.read, if_neg (h c List.mem_cons_self)]
    exact ih fun d hd => h d (List.mem_cons_of_mem _ hd)

/-! ### The same laws on states -/

theorem State.byteAt_writeByte (s : State) (a k : Nat) (b : Byte) :
    (s.writeByte a b).byteAt k = if a = k then b else s.byteAt k :=
  Memory.read_write s.params s.mem a k b

theorem State.writeByte_wf (s : State) {a : Nat} (b : Byte) (h : Memory.wf s.params s.mem)
    (ha : a < memorySize) : Memory.wf (s.writeByte a b).params (s.writeByte a b).mem :=
  Memory.wf_write b h ha

/-! ### A store of several bytes -/

@[simp] theorem State.writeBytes_nil (s : State) (bs : List Byte) : s.writeBytes [] bs = s := by
  cases bs <;> rfl

@[simp] theorem State.writeBytes_cons (s : State) (a : Nat) (b : Byte) (as : List Nat) (bs : List Byte) :
    s.writeBytes (a :: as) (b :: bs) = (s.writeByte a b).writeBytes as bs := rfl

/-- A store of several bytes changes memory and nothing else. -/
theorem State.writeBytes_eq (s : State) (as : List Nat) (bs : List Byte) :
    s.writeBytes as bs = { s with mem := (s.writeBytes as bs).mem } := by
  induction as generalizing s bs with
  | nil => simp
  | cons a as ih =>
    cases bs with
    | nil => rfl
    | cons b bs =>
      rw [State.writeBytes_cons]
      exact (ih (s.writeByte a b) bs).trans rfl

/-- A store of several bytes leaves every other address alone. -/
theorem State.byteAt_writeBytes_of_not_mem (s : State) {as : List Nat} (bs : List Byte) {k : Nat}
    (h : k ∉ as) : (s.writeBytes as bs).byteAt k = s.byteAt k := by
  induction as generalizing s bs with
  | nil => simp
  | cons a as ih =>
    cases bs with
    | nil => rfl
    | cons b bs =>
      have hk := not_or.1 (mt List.mem_cons.2 h)
      rw [State.writeBytes_cons, ih _ _ hk.2, State.byteAt_writeByte, if_neg (Ne.symm hk.1)]

/-- Of several bytes stored at different addresses, each reads back at its own. -/
theorem State.byteAt_writeBytes (s : State) {as : List Nat} {bs : List Byte} (hd : as.Nodup)
    (hl : as.length = bs.length) {k : Nat} (hk : k < as.length) :
    (s.writeBytes as bs).byteAt (as[k]) = bs[k]'(hl ▸ hk) := by
  induction as generalizing s bs k with
  | nil => simp at hk
  | cons a as ih =>
    cases bs with
    | nil => simp at hl
    | cons b bs =>
      have hn := List.nodup_cons.1 hd
      rw [State.writeBytes_cons]
      cases k with
      | zero =>
        simp only [List.getElem_cons_zero]
        rw [State.byteAt_writeBytes_of_not_mem _ _ hn.1, State.byteAt_writeByte, if_pos rfl]
      | succ k =>
        simpa using ih (s.writeByte a b) hn.2 (by simpa using hl) (by simpa using hk)

/-- A store of several bytes inside memory keeps the canonical form. -/
theorem State.writeBytes_wf (s : State) {as : List Nat} (bs : List Byte)
    (h : Memory.wf s.params s.mem) (ha : ∀ a ∈ as, a < memorySize) :
    Memory.wf s.params (s.writeBytes as bs).mem := by
  induction as generalizing s bs with
  | nil => simpa using h
  | cons a as ih =>
    cases bs with
    | nil => exact h
    | cons b bs =>
      rw [State.writeBytes_cons]
      exact ih (s.writeByte a b) bs (s.writeByte_wf b h (ha a List.mem_cons_self))
        (fun k hk => ha k (List.mem_cons_of_mem _ hk))

end Sys2Proof.Machine
end

