-- ==== Sys2Proof/Laws/Ops.lean ====
section
/-! SUPPORT. For each shared operation, once, everything it can do. -/

namespace Sys2Proof.Machine

/-! ### The address policy and transfers (R53, R54, R57, R120) -/

@[simp] theorem physical_wrap12 (a : Nat) : physical .wrap12 a = .ok (a % memorySize) := rfl

theorem physical_fault (a : Nat) :
    physical .fault a = if a ≥ memorySize then .error (.boundsFault a) else .ok a := rfl

/-- An access that passes its check reaches `a mod 4096`, under either policy. -/
theorem physical_ok {policy : AddrPolicy} {a b : Nat} (h : physical policy a = .ok b) : b = a % memorySize := by
  cases policy with
  | wrap12 => simpa using h.symm
  | fault =>
    rw [physical_fault] at h
    split at h
    · cases h
    · cases h; exact (Nat.mod_eq_of_lt (by omega)).symm

/-- An access fails only under Fault, for an address outside memory, which the error names. -/
theorem physical_error {policy : AddrPolicy} {a : Nat} {e : StepError} (h : physical policy a = .error e) :
    policy = .fault ∧ memorySize ≤ a ∧ e = .boundsFault a := by
  cases policy with
  | wrap12 => simp at h
  | fault =>
    rw [physical_fault] at h
    split at h
    · cases h; exact ⟨rfl, ‹_›, rfl⟩
    · cases h

/-- The addresses of a transfer, counted from `a` in steps of one. -/
theorem transfer_list_succ (a count : Nat) :
    (List.range (count + 1)).map (fun k => (a + k) % memorySize)
      = a % memorySize :: (List.range count).map (fun k => (a + 1 + k) % memorySize) := by
  rw [List.range_succ_eq_map, List.map_cons, List.map_map]
  simp only [Nat.add_zero, List.cons.injEq, true_and]
  exact List.map_congr_left fun k _ => by simp only [Function.comp, Nat.succ_eq_add_one]; congr 1; omega

/-- Under Wrap12 every transfer runs, and its addresses wrap at the top of memory (R54). -/
theorem transferAddrs_wrap12 (a count : Nat) :
    transferAddrs .wrap12 a count = .ok ((List.range count).map (fun k => (a + k) % memorySize)) := by
  induction count generalizing a with
  | zero => rfl
  | succ n ih => simp only [transferAddrs, physical_wrap12, ih, transfer_list_succ]

/-- Under Fault a transfer that ends inside memory runs (R53). -/
theorem transferAddrs_fault_ok {a count : Nat} (h : count = 0 ∨ a + count ≤ memorySize) :
    transferAddrs .fault a count = .ok ((List.range count).map (fun k => (a + k) % memorySize)) := by
  induction count generalizing a with
  | zero => rfl
  | succ n ih =>
    have ha : a < memorySize := by omega
    simp only [transferAddrs, physical_fault, if_neg (Nat.not_le.2 ha), ih (a := a + 1) (by omega),
      transfer_list_succ, Nat.mod_eq_of_lt ha]

/-- Under Fault a transfer that leaves memory fails at its smallest address out of range (R120). -/
theorem transferAddrs_fault_error {a count : Nat} (h0 : count ≠ 0) (h : memorySize < a + count) :
    transferAddrs .fault a count = .error (.boundsFault (max a memorySize)) := by
  induction count generalizing a with
  | zero => exact absurd rfl h0
  | succ n ih =>
    simp only [transferAddrs, physical_fault]
    by_cases ha : memorySize ≤ a
    · simp only [ge_iff_le, ha, if_true, Nat.max_eq_left]
    · have hn : n ≠ 0 := by omega
      simp only [ge_iff_le, ha, if_false, ih (a := a + 1) hn (by omega)]
      congr 2; omega

variable (s : State)

/-- A transfer that passes its checks runs on `transferBytes` (R53, R54). -/
theorem State.transfer_allowed {count : Nat} (k : List Nat → State) (h : s.transferAllowed count) :
    s.transfer count k = .next (k (s.transferBytes count)) := by
  unfold State.transfer State.transferBytes
  cases hp : s.params.addrPolicy with
  | wrap12 => rw [transferAddrs_wrap12]
  | fault =>
    rcases h with h | h
    · rw [hp] at h; cases h
    · rw [transferAddrs_fault_ok h]

/-- A transfer that fails its checks raises BoundsFault at its smallest address out of range, and does nothing else
(R120). -/
theorem State.transfer_denied {count : Nat} (k : List Nat → State) (h : ¬ s.transferAllowed count) :
    s.transfer count k = .next (s.raise (.boundsFault (max s.i.toNat memorySize))) := by
  unfold State.transferAllowed at h
  unfold State.transfer
  cases hp : s.params.addrPolicy with
  | wrap12 => exact absurd (.inl hp) h
  | fault => rw [transferAddrs_fault_error (by omega) (by omega)]

@[simp] theorem State.length_transferBytes (count : Nat) : (s.transferBytes count).length = count := by
  simp [State.transferBytes]

@[simp] theorem State.getElem_transferBytes {count k : Nat} (h : k < (s.transferBytes count).length) :
    (s.transferBytes count)[k] = (s.i.toNat + k) % memorySize := by
  simp [State.transferBytes]

theorem State.mem_transferBytes {count a : Nat} :
    a ∈ s.transferBytes count ↔ ∃ k < count, (s.i.toNat + k) % memorySize = a := by
  simp [State.transferBytes]

theorem State.transferBytes_lt {count a : Nat} (h : a ∈ s.transferBytes count) : a < memorySize := by
  obtain ⟨k, -, rfl⟩ := s.mem_transferBytes.1 h
  exact Nat.mod_lt _ (by decide)

/-- The bytes of a transfer of at most 4096 bytes are all different. -/
theorem State.transferBytes_nodup {count : Nat} (h : count ≤ memorySize) : (s.transferBytes count).Nodup := by
  refine List.Nodup.map_on ?_ List.nodup_range
  intro a ha b hb hab
  have ha := List.mem_range.1 ha
  have hb := List.mem_range.1 hb
  simp only [memorySize] at *
  omega

/-! ### The fetch (R77) -/

/-- A fetch that passes its checks reads the big-endian word at pc, wrapping at the top of memory. -/
theorem State.fetch_ok {op : Word} (h : s.fetch = .ok op) :
    op = wordOfBytes (s.byteAt (s.pc.toNat % memorySize)) (s.byteAt ((s.pc.toNat + 1) % memorySize)) := by
  unfold State.fetch at h
  split at h
  · cases h
  · rename_i a ha
    split at h
    · cases h
    · rename_i b hb
      rw [← physical_ok ha, ← physical_ok hb]
      exact (Except.ok.inj h).symm

/-- The fetch passes its checks under Wrap12 always, under Fault where pc + 1 lies in memory. -/
theorem State.fetch_of_allowed (h : s.params.addrPolicy = .wrap12 ∨ s.pc.toNat + 1 < memorySize) :
    s.fetch = .ok
      (wordOfBytes (s.byteAt (s.pc.toNat % memorySize)) (s.byteAt ((s.pc.toNat + 1) % memorySize))) := by
  unfold State.fetch
  cases hp : s.params.addrPolicy with
  | wrap12 => simp
  | fault =>
    have hpc : s.pc.toNat + 1 < memorySize := h.resolve_left (by rw [hp]; decide)
    rw [physical_fault, physical_fault, if_neg (by omega), if_neg (by omega), Nat.mod_eq_of_lt hpc,
      Nat.mod_eq_of_lt (by omega)]

/-- Under Fault a fetch with pc + 1 outside memory fails at its first address out of range (R77). -/
theorem State.fetch_denied (hp : s.params.addrPolicy = .fault) (h : memorySize ≤ s.pc.toNat + 1) :
    s.fetch = .error (.boundsFault (max s.pc.toNat memorySize)) := by
  unfold State.fetch
  rw [hp, physical_fault, physical_fault]
  by_cases hpc : memorySize ≤ s.pc.toNat
  · simp only [ge_iff_le, hpc, if_true, Nat.max_eq_left]
  · simp only [ge_iff_le, hpc, if_false, h, if_true]
    congr 2; omega

/-- A fetch fails only under Fault, where pc + 1 lies outside memory. -/
theorem State.fetch_error {e : StepError} (h : s.fetch = .error e) :
    s.params.addrPolicy = .fault ∧ memorySize ≤ s.pc.toNat + 1 ∧
      e = .boundsFault (max s.pc.toNat memorySize) := by
  unfold State.fetch at h
  split at h
  · rename_i ha
    obtain ⟨hp, hle, rfl⟩ := physical_error ha
    cases h
    exact ⟨hp, by omega, by rw [Nat.max_eq_left hle]⟩
  · rename_i a ha
    split at h
    · rename_i hb
      obtain ⟨hp, hle, rfl⟩ := physical_error hb
      cases h
      rw [hp, physical_fault] at ha
      split at ha
      · cases ha
      · exact ⟨hp, hle, by congr 1; omega⟩
    · cases h

/-! ### The return stack (R29, R30) -/

theorem State.push_of_lt {w : Word} (h : s.sp < 16) :
    s.push w = .ok { s with stack := s.stack.set s.sp w h, sp := s.sp + 1 } := dif_pos h

theorem State.push_of_full {w : Word} (h : 16 ≤ s.sp) : s.push w = .error .stackOverflow :=
  dif_neg (Nat.not_lt.2 h)

theorem State.pop_of_empty (h : s.sp = 0) : s.pop = .error .emptyStack := by
  unfold State.pop; rw [h]

theorem State.pop_of_pos (h : 0 < s.sp) :
    s.pop = .ok (s.stack.toList.getD (s.sp - 1) 0, { s with sp := s.sp - 1 }) := by
  unfold State.pop
  cases hs : s.sp with
  | zero => omega
  | succ k => rfl

/-- Reading the stack after a push. -/
theorem stack_getD_set (v : Vector Word 16) (k n : Nat) (w : Word) (h : k < 16) :
    (v.set k w h).toList.getD n 0 = if k = n then w else v.toList.getD n 0 := by
  rw [Vector.toList_set, List.getD_eq_getElem?_getD, List.getD_eq_getElem?_getD, List.getElem?_set]
  split <;> simp_all

/-! ### Operands (R104, R115, R125, R126, R136) -/

theorem keyIndex_of_lt (policy : KeyIndexPolicy) {b : Byte} (h : b.toNat < 16) :
    keyIndex policy b = .ok ⟨b.toNat, h⟩ := dif_pos h

theorem keyIndex_fault {b : Byte} (h : 16 ≤ b.toNat) : keyIndex .fault b = .error (.boundsFault b.toNat) :=
  dif_neg (Nat.not_lt.2 h)

theorem keyIndex_mask4 (b : Byte) : keyIndex .mask4 b = .ok ⟨b.toNat % 16, Nat.mod_lt _ (by decide)⟩ := by
  unfold keyIndex
  split
  · rename_i h; simp only [Nat.mod_eq_of_lt h]
  · rfl

@[simp] theorem toNat_zext (nnn : Address) : (zext nnn).toNat = nnn.toNat := by
  simp only [zext, BitVec.toNat_setWidth]; have := nnn.isLt; omega

@[simp] theorem toNat_zextByte (b : Byte) : (zextByte b).toNat = b.toNat := by
  simp only [zextByte, BitVec.toNat_setWidth]; have := b.isLt; omega

/-- Only `i` can change, by the number of bytes moved, with the `memory` quirk. -/
theorem State.bumpIndex_eq (x : Reg) :
    s.bumpIndex x =
      { s with i := if s.params.quirks.memory then s.i + BitVec.ofNat 16 (x.val + 1) else s.i } := by
  unfold State.bumpIndex State.setI; split <;> rfl

/-- A register load writes the registers from `k` up, one a byte, and no other. -/
theorem getElem_loadRegs (v : Vector Byte 16) (k : Nat) (bs : List Byte) (r : Nat) (hr : r < 16) :
    (loadRegs v k bs)[r] = if k ≤ r ∧ r < k + bs.length then bs.getD (r - k) 0 else v[r] := by
  induction bs generalizing v k with
  | nil =>
    rw [loadRegs, if_neg]
    simp only [List.length_nil]; omega
  | cons b bs ih =>
    rw [loadRegs, ih, Vector.getElem_setIfInBounds]
    simp only [List.length_cons]
    by_cases h1 : k = r
    · subst h1
      rw [if_neg (by omega), if_pos rfl, if_pos (by omega)]; simp
    · by_cases h2 : k + 1 ≤ r ∧ r < k + 1 + bs.length
      · rw [if_pos h2, if_pos (by omega)]
        have : r - k = (r - (k + 1)) + 1 := by omega
        rw [this, List.getD_cons_succ]
      · rw [if_neg h2, if_neg h1, if_neg (by omega)]

/-- The bytes of a register dump are V0 to Vx. -/
theorem State.length_dumpBytes (x : Reg) : (s.dumpBytes x).length = x.val + 1 := by
  simp only [State.dumpBytes, List.length_take, Vector.length_toList]; omega

theorem State.getElem_dumpBytes (x : Reg) (k : Nat) (h : k < (s.dumpBytes x).length) :
    (s.dumpBytes x)[k] = s.reg ⟨k, by rw [State.length_dumpBytes] at h; omega⟩ := by
  simp only [State.dumpBytes, State.reg, List.getElem_take, Vector.getElem_toList, Fin.getElem_fin]

/-! ### Flags (R106, R110) -/

/-- The register file after WriteRF, in either order: they differ in VF alone, where VF is the destination. -/
theorem State.reg_writeResultFlag (x q : Reg) (r f : Byte) :
    (s.writeResultFlag x r f).reg q =
      if q = VF then (if x = VF ∧ s.params.vfOrder = .flagThenResult then r else f)
      else if q = x then r else s.reg q := by
  unfold State.writeResultFlag
  cases s.params.vfOrder <;> simp only [State.reg_setReg, and_true, and_false, if_false, reduceCtorEq]
  · by_cases h1 : x = q
    · subst h1; by_cases h2 : x = VF <;> simp [h2]
    · by_cases h2 : q = VF
      · subst h2; simp [h1]
      · simp [h1, h2, Ne.symm h1, Ne.symm h2]
  · by_cases h1 : q = VF
    · subst h1; simp
    · rw [if_neg (Ne.symm h1), if_neg h1]; simp only [eq_comm]

/-- WriteRF writes registers and nothing else. -/
theorem State.writeResultFlag_eq (x : Reg) (r f : Byte) :
    s.writeResultFlag x r f = { s with v := (s.writeResultFlag x r f).v } := by
  unfold State.writeResultFlag; cases s.params.vfOrder <;> rfl

theorem State.reg_vfResetQuirk (q : Reg) :
    s.vfResetQuirk.reg q = if q = VF ∧ s.params.quirks.vfReset then 0 else s.reg q := by
  unfold State.vfResetQuirk
  cases s.params.quirks.vfReset
  · simp
  · simp [State.reg_setReg, eq_comm]

theorem State.vfResetQuirk_eq : s.vfResetQuirk = { s with v := s.vfResetQuirk.v } := by
  unfold State.vfResetQuirk; split <;> rfl

/-! ### The framebuffer (R129 to R131) -/

theorem pixelAt_of_lt (fb : Framebuffer) {row col : Nat} (hr : row < 32) (hc : col < 64) :
    pixelAt fb row col = fb[row][col] := dif_pos ⟨hr, hc⟩

@[simp] theorem pixelAt_blankScreen (row col : Nat) : pixelAt blankScreen row col = false := by
  unfold pixelAt blankScreen; split <;> simp

/-- A pixel of a sprite off the screen is dropped (R130). -/
theorem blitPixel_clipped (acc : Framebuffer × Bool) {row col : Nat} (src : Bool)
    (h : ¬ (row < 32 ∧ col < 64)) : blitPixel acc row col src = acc := dif_neg h

/-- A pixel of a sprite on the screen is XORed into its place and into no other (R129). -/
theorem pixelAt_blitPixel (acc : Framebuffer × Bool) {row col : Nat} (src : Bool)
    (h : row < 32 ∧ col < 64) (r c : Nat) :
    pixelAt (blitPixel acc row col src).1 r c =
      if row = r ∧ col = c then (pixelAt acc.1 r c ^^ src) else pixelAt acc.1 r c := by
  unfold blitPixel
  rw [dif_pos h]
  unfold pixelAt
  by_cases hrc : r < 32 ∧ c < 64
  · simp only [hrc, and_self, dif_pos, Vector.getElem_set]
    by_cases h1 : row = r
    · subst h1
      by_cases h2 : col = c
      · subst h2; simp
      · simp [h2]
    · simp [h1]
  · simp only [hrc, dif_neg, not_false_eq_true]
    rw [if_neg]; rintro ⟨rfl, rfl⟩; exact hrc h

/-- The collision flag after one pixel of a sprite (R131). -/
theorem hit_blitPixel (acc : Framebuffer × Bool) (row col : Nat) (src : Bool) :
    (blitPixel acc row col src).2 = (acc.2 || (src && pixelAt acc.1 row col)) := by
  unfold blitPixel pixelAt
  split <;> simp

/-- Two screens with the same pixels are the same screen. -/
theorem Framebuffer.ext_pixelAt {fb gb : Framebuffer}
    (h : ∀ row col, row < 32 → col < 64 → pixelAt fb row col = pixelAt gb row col) : fb = gb := by
  apply Vector.ext; intro row hr
  apply Vector.ext; intro col hc
  simpa [pixelAt_of_lt _ hr hc] using h row col hr hc

/-! ### The keypad and the draws (R14, R138) -/

theorem State.mem_pressed {k : Reg} : k ∈ s.pressed ↔ s.keys[k] = true := by
  simp [State.pressed]

/-- The key drawn is one of those it is drawn from, whatever the free value. -/
theorem State.drawKey_mem (first : Reg) (rest : List Reg) : s.drawKey first rest ∈ first :: rest := by
  unfold State.drawKey
  rw [List.getD_eq_getElem]
  · exact List.getElem_mem _
  · exact Nat.mod_lt _ (Nat.succ_pos _)

/-! ### Skips (R96) -/

theorem State.skipIf_eq (c : Bool) : s.skipIf c = .next (s.setPc (if c then s.pc + 2 else s.pc)) := by
  cases c <;> rfl

end Sys2Proof.Machine
end

