-- ==== Sys2Proof/Laws/PerInstr.lean ====
section
/-! SUPPORT. Statements for all instructions, one lemma per constructor: the word of an instruction lies in the
instruction's row of the table (spec/30_encoding.md R79, R85). -/

namespace Sys2Proof.Laws.InRow

/-- The word of an instruction matches its row of R79. -/
def Statement (i : Instr) : Prop := i.row.accepts (encode i) = true

theorem packAddr_accepts (h : Nibble) (nnn : Address) {pat : Word} (e : packAddr h 0 = pat) :
    OpcodeRow.accepts ⟨pat, 0xF000⟩ (packAddr h nnn) = true := by
  simp only [OpcodeRow.accepts, packAddr_mask, e, BEq.rfl]

theorem packByte_accepts (h : Nibble) (x : Reg) (nn : Byte) {pat : Word} (e : packAddr h 0 = pat) :
    OpcodeRow.accepts ⟨pat, 0xF000⟩ (packByte h x nn) = true := by
  simp only [OpcodeRow.accepts, packByte_mask_header, e, BEq.rfl]

theorem packByte_accepts_low (h : Nibble) (x : Reg) (nn : Byte) {pat : Word} (e : packByte h 0 nn = pat) :
    OpcodeRow.accepts ⟨pat, 0xF0FF⟩ (packByte h x nn) = true := by
  simp only [OpcodeRow.accepts, packByte_mask_low, e, BEq.rfl]

theorem packRegs_accepts (h : Nibble) (x y : Reg) (n : Nibble) {pat : Word} (e : packAddr h 0 = pat) :
    OpcodeRow.accepts ⟨pat, 0xF000⟩ (packRegs h x y n) = true := by
  simp only [OpcodeRow.accepts, packRegs_mask_header, e, BEq.rfl]

theorem packRegs_accepts_low (h : Nibble) (x y : Reg) (n : Nibble) {pat : Word}
    (e : packRegs h 0 0 n = pat) : OpcodeRow.accepts ⟨pat, 0xF00F⟩ (packRegs h x y n) = true := by
  simp only [OpcodeRow.accepts, packRegs_mask_low, e, BEq.rfl]

theorem cls : Statement .cls := rfl
theorem ret : Statement .ret := rfl
theorem jp (nnn : Address) : Statement (.jp nnn) := packAddr_accepts _ _ (by decide)
theorem call (nnn : Address) : Statement (.call nnn) := packAddr_accepts _ _ (by decide)
theorem seByte (x : Reg) (nn : Byte) : Statement (.seByte x nn) := packByte_accepts _ _ _ (by decide)
theorem sneByte (x : Reg) (nn : Byte) : Statement (.sneByte x nn) := packByte_accepts _ _ _ (by decide)
theorem seReg (x y : Reg) : Statement (.seReg x y) := packRegs_accepts_low _ _ _ _ (by decide)
theorem ldByte (x : Reg) (nn : Byte) : Statement (.ldByte x nn) := packByte_accepts _ _ _ (by decide)
theorem addByte (x : Reg) (nn : Byte) : Statement (.addByte x nn) := packByte_accepts _ _ _ (by decide)
theorem ldReg (x y : Reg) : Statement (.ldReg x y) := packRegs_accepts_low _ _ _ _ (by decide)
theorem orReg (x y : Reg) : Statement (.orReg x y) := packRegs_accepts_low _ _ _ _ (by decide)
theorem andReg (x y : Reg) : Statement (.andReg x y) := packRegs_accepts_low _ _ _ _ (by decide)
theorem xorReg (x y : Reg) : Statement (.xorReg x y) := packRegs_accepts_low _ _ _ _ (by decide)
theorem addReg (x y : Reg) : Statement (.addReg x y) := packRegs_accepts_low _ _ _ _ (by decide)
theorem subReg (x y : Reg) : Statement (.subReg x y) := packRegs_accepts_low _ _ _ _ (by decide)
theorem shrReg (x y : Reg) : Statement (.shrReg x y) := packRegs_accepts_low _ _ _ _ (by decide)
theorem subnReg (x y : Reg) : Statement (.subnReg x y) := packRegs_accepts_low _ _ _ _ (by decide)
theorem shlReg (x y : Reg) : Statement (.shlReg x y) := packRegs_accepts_low _ _ _ _ (by decide)
theorem sneReg (x y : Reg) : Statement (.sneReg x y) := packRegs_accepts_low _ _ _ _ (by decide)
theorem ldI (nnn : Address) : Statement (.ldI nnn) := packAddr_accepts _ _ (by decide)
theorem jpV0 (x : Reg) (nnn : Address) : Statement (.jpV0 x nnn) := packAddr_accepts _ _ (by decide)
theorem rnd (x : Reg) (nn : Byte) : Statement (.rnd x nn) := packByte_accepts _ _ _ (by decide)
theorem drw (x y : Reg) (n : Nibble) : Statement (.drw x y n) := packRegs_accepts _ _ _ _ (by decide)
theorem skp (x : Reg) : Statement (.skp x) := packByte_accepts_low _ _ _ (by decide)
theorem sknp (x : Reg) : Statement (.sknp x) := packByte_accepts_low _ _ _ (by decide)
theorem ldVxDT (x : Reg) : Statement (.ldVxDT x) := packByte_accepts_low _ _ _ (by decide)
theorem ldVxK (x : Reg) : Statement (.ldVxK x) := packByte_accepts_low _ _ _ (by decide)
theorem ldDTVx (x : Reg) : Statement (.ldDTVx x) := packByte_accepts_low _ _ _ (by decide)
theorem ldSTVx (x : Reg) : Statement (.ldSTVx x) := packByte_accepts_low _ _ _ (by decide)
theorem addI (x : Reg) : Statement (.addI x) := packByte_accepts_low _ _ _ (by decide)
theorem ldF (x : Reg) : Statement (.ldF x) := packByte_accepts_low _ _ _ (by decide)
theorem ldB (x : Reg) : Statement (.ldB x) := packByte_accepts_low _ _ _ (by decide)
theorem ldIVx (x : Reg) : Statement (.ldIVx x) := packByte_accepts_low _ _ _ (by decide)
theorem ldVxI (x : Reg) : Statement (.ldVxI x) := packByte_accepts_low _ _ _ (by decide)

end Sys2Proof.Laws.InRow
end

