-- ==== Sys2Proof/Tests/Slice0.lean ====
section
/-! SUPPORT. Tests of the model on fixed values. The expected results are those of spec/95_test_vectors.md, cited by
section, or of the example of the rule named. The witnesses of the statements' hypotheses are in Tests/Witnesses.lean. -/

namespace Sys2Proof.Tests

open Sys2Proof.Machine

/-! ## Helpers -/

/-- The machine after reset with an instruction's word placed at 0x200. -/
def placed (w : Nat) : State := State.reset.withFetchWord 16 w

/-- Registers set, pair by pair. -/
def withRegs (s : State) (l : List (Reg × Byte)) : State := l.foldl (fun s p => s.setReg p.1 p.2) s

/-- Quirks set. -/
def withQuirks (s : State) (q : Quirks) : State := { s with params := { s.params with quirks := q } }

/-- The state after one step. -/
def after (s : State) : State :=
  match step s with
  | .next t => t
  | .fault _ => s
  | .refused _ => s

/-- The lit pixels of a row. -/
def litIn (s : State) (row : Nat) : List Nat := (List.range 64).filter (fun c => pixelAt s.fb row c)

/-- A machine under `P_ADDR_POLICY = Fault`. -/
def faulting (s : State) : State := { s with params := { s.params with addrPolicy := .fault } }

/-- A machine under `P_VF_ORDER = ResultThenFlag`. -/
def flagLast (s : State) : State := { s with params := { s.params with vfOrder := .resultThenFlag } }

/-- A machine under `P_KEY_INDEX = Mask4`. -/
def masking (s : State) : State := { s with params := { s.params with keyIndex := .mask4 } }

/-! ## WellFormed: the check refuses an ill-formed term (R73) -/

theorem test_wellFormed_jpV0 : (Instr.jpV0 3 0x300).wellFormed = true := by decide
theorem test_illFormed_jpV0 : (Instr.jpV0 4 0x300).wellFormed = false := by decide

/-! ## Decode: words written out from R79 and 95_test_vectors.md 2.1 -/

theorem test_decode_cls : decode 0x00E0 = .ok .cls := by decide
theorem test_decode_ret : decode 0x00EE = .ok .ret := by decide
theorem test_decode_jp : decode 0x1234 = .ok (.jp 0x234) := by decide
theorem test_decode_call : decode 0x2210 = .ok (.call 0x210) := by decide
theorem test_decode_seByte : decode 0x3310 = .ok (.seByte 3 0x10) := by decide
theorem test_decode_sneByte : decode 0x4310 = .ok (.sneByte 3 0x10) := by decide
theorem test_decode_seReg : decode 0x5120 = .ok (.seReg 1 2) := by decide
theorem test_decode_ldByte : decode 0x6A9C = .ok (.ldByte 0xA 0x9C) := by decide
theorem test_decode_addByte : decode 0x71FF = .ok (.addByte 1 0xFF) := by decide
theorem test_decode_ldReg : decode 0x8120 = .ok (.ldReg 1 2) := by decide
theorem test_decode_orReg : decode 0x8121 = .ok (.orReg 1 2) := by decide
theorem test_decode_andReg : decode 0x8122 = .ok (.andReg 1 2) := by decide
theorem test_decode_xorReg : decode 0x8123 = .ok (.xorReg 1 2) := by decide
theorem test_decode_addReg : decode 0x8F14 = .ok (.addReg 0xF 1) := by decide
theorem test_decode_subReg : decode 0x8015 = .ok (.subReg 0 1) := by decide
theorem test_decode_shrReg : decode 0x8016 = .ok (.shrReg 0 1) := by decide
theorem test_decode_subnReg : decode 0x8127 = .ok (.subnReg 1 2) := by decide
theorem test_decode_shlReg : decode 0x812E = .ok (.shlReg 1 2) := by decide
theorem test_decode_sneReg : decode 0x9AB0 = .ok (.sneReg 0xA 0xB) := by decide
theorem test_decode_ldI : decode 0xA300 = .ok (.ldI 0x300) := by decide
theorem test_decode_jpV0 : decode 0xB300 = .ok (.jpV0 3 0x300) := by decide
theorem test_decode_rnd : decode 0xC10F = .ok (.rnd 1 0x0F) := by decide
theorem test_decode_drw : decode 0xD125 = .ok (.drw 1 2 5) := by decide
theorem test_decode_skp : decode 0xE19E = .ok (.skp 1) := by decide
theorem test_decode_sknp : decode 0xE1A1 = .ok (.sknp 1) := by decide
theorem test_decode_ldVxDT : decode 0xF307 = .ok (.ldVxDT 3) := by decide
theorem test_decode_ldVxK : decode 0xF30A = .ok (.ldVxK 3) := by decide
theorem test_decode_ldDTVx : decode 0xF315 = .ok (.ldDTVx 3) := by decide
theorem test_decode_ldSTVx : decode 0xF318 = .ok (.ldSTVx 3) := by decide
theorem test_decode_addI : decode 0xF21E = .ok (.addI 2) := by decide
theorem test_decode_ldF : decode 0xF029 = .ok (.ldF 0) := by decide
theorem test_decode_ldB : decode 0xFA33 = .ok (.ldB 0xA) := by decide
theorem test_decode_ldIVx : decode 0xF155 = .ok (.ldIVx 1) := by decide
theorem test_decode_ldVxI : decode 0xFF65 = .ok (.ldVxI 0xF) := by decide
theorem test_decode_unknown_system : decode 0x0123 = .error (.unknown 0x0123) := by decide
theorem test_decode_unknown_01E0 : decode 0x01E0 = .error (.unknown 0x01E0) := by decide
theorem test_decode_unknown_alu : decode 0x8008 = .error (.unknown 0x8008) := by decide
theorem test_decode_unknown_keys : decode 0xE000 = .error (.unknown 0xE000) := by decide
theorem test_decode_unknown_misc : decode 0xF0FF = .error (.unknown 0xF0FF) := by decide
theorem test_encode_drw : encode (.drw 1 2 5) = 0xD125 := by decide

/-! ## Memory after reset (R35, R48) and the byte order of the fetch (R77) -/

theorem test_reset_font : (List.range 5).map (fun k => State.reset.byteAt (0x069 + k)) = [0xF0, 0x80, 0xF0, 0x10, 0xF0] := by
  decide
theorem test_reset_free : State.reset.byteAt 0x200 = 0 ∧ State.reset.byteAt 0x0A0 = 0 := by decide
theorem test_fetch_wraps :
    (((State.reset.writeByte 0xFFF 0x12).writeByte 0x000 0x34).setPc 0xFFF).fetch = .ok 0x1234 := by decide

/-! ## One step of each instruction -/

/-- 2.5. -/
theorem test_cls : litIn (after { placed 0x00E0 with fb := (blitPixel (blankScreen, false) 1 1 true).1 }) 1 = [] := by
  decide
/-- 2.2. -/
theorem test_ret_empty : (after (placed 0x00EE)).history = [.emptyStack] ∧ (after (placed 0x00EE)).pc = 0x202 := by
  decide
/-- R97's example. -/
theorem test_ret : (after { placed 0x00EE with sp := 1, stack := State.reset.stack.set 0 0x206 }).pc = 0x206 := by decide
/-- 2.2. -/
theorem test_jp : (after (placed 0x1234)).pc = 0x234 := by decide
/-- 2.2. -/
theorem test_call : (after (placed 0x2206)).stack[0] = 0x202 ∧ (after (placed 0x2206)).pc = 0x206 := by decide
/-- 2.2. -/
theorem test_call_full : (after { placed 0x2300 with sp := 16 }).history = [.stackOverflow] ∧
    (after { placed 0x2300 with sp := 16 }).pc = 0x202 := by decide
/-- 2.2. -/
theorem test_seByte : (after (withRegs (placed 0x3310) [(3, 0x10)])).pc = 0x204 := by decide
/-- 2.2. -/
theorem test_sneByte : (after (withRegs (placed 0x4310) [(3, 0x10)])).pc = 0x202 := by decide
/-- 2.2. -/
theorem test_seReg : (after (withRegs (placed 0x5120) [(1, 7), (2, 7)])).pc = 0x204 := by decide
/-- 2.2. -/
theorem test_sneReg : (after (withRegs (placed 0x9120) [(1, 7), (2, 8)])).pc = 0x204 := by decide
/-- 2.2: the target passes 0xFFF. -/
theorem test_jpV0 : (after (withRegs (placed 0xBFFF) [(0, 0xFF)])).pc = 0x10FE := by decide
/-- 2.2. -/
theorem test_jpV0_jumping : (after (withQuirks (withRegs (placed 0xB300) [(0, 2), (3, 5)])
    { vfReset := false, memory := false, shifting := false, jumping := true })).pc = 0x305 := by decide
/-- 2.3: VF as a destination. -/
theorem test_ldByte_vf : (after (placed 0x6F42)).reg VF = 0x42 := by decide
/-- 2.3: VF as a destination, no flag. -/
theorem test_addByte_wraps : (after (withRegs (placed 0x7F01) [(VF, 0xFF)])).reg VF = 0 := by decide
/-- 2.3. -/
theorem test_ldReg : (after (withRegs (placed 0x8010) [(0, 0x12), (1, 0x34)])).reg 0 = 0x34 := by decide
/-- 2.3. -/
theorem test_orReg : (after (withRegs (placed 0x8121) [(1, 0x3C), (2, 0x0F), (VF, 7)])).reg 1 = 0x3F ∧
    (after (withRegs (placed 0x8121) [(1, 0x3C), (2, 0x0F), (VF, 7)])).reg VF = 7 := by decide
/-- 2.3. -/
theorem test_andReg : (after (withRegs (placed 0x8122) [(1, 0x3C), (2, 0x0F)])).reg 1 = 0x0C := by decide
/-- 2.3: `vf_reset` after the result, with VF the destination. -/
theorem test_xorReg_vfReset : (after (withQuirks (withRegs (placed 0x8F13) [(VF, 7), (1, 0x3C)])
    { vfReset := true, memory := false, shifting := false, jumping := false })).reg VF = 0 := by decide
/-- 2.3: the old VF is read as Vy. -/
theorem test_addReg : (after (withRegs (placed 0x81F4) [(1, 0x10), (VF, 1)])).reg 1 = 0x11 ∧
    (after (withRegs (placed 0x81F4) [(1, 0x10), (VF, 1)])).reg VF = 0 := by decide
/-- 2.3: the two orders. -/
theorem test_addReg_vf : (after (withRegs (placed 0x8F14) [(VF, 0xFF), (1, 3)])).reg VF = 2 ∧
    (after (flagLast (withRegs (placed 0x8F14) [(VF, 0xFF), (1, 3)]))).reg VF = 1 := by decide
/-- 2.3. -/
theorem test_subReg_borrow : (after (withRegs (placed 0x8015) [(0, 3), (1, 5)])).reg 0 = 0xFE ∧
    (after (withRegs (placed 0x8015) [(0, 3), (1, 5)])).reg VF = 0 := by decide
/-- 2.3: equality is no borrow. -/
theorem test_subReg_equal : (after (withRegs (placed 0x8015) [(0, 7), (1, 7)])).reg VF = 1 := by decide
/-- 2.3: Vy is shifted without the quirk. -/
theorem test_shrReg : (after (withRegs (placed 0x8016) [(0, 3), (1, 4)])).reg 0 = 2 ∧
    (after (withRegs (placed 0x8016) [(0, 3), (1, 4)])).reg VF = 0 := by decide
/-- 2.3: Vx is shifted with the quirk. -/
theorem test_shrReg_shifting : (after (withQuirks (withRegs (placed 0x8016) [(0, 3), (1, 4)])
    { vfReset := false, memory := false, shifting := true, jumping := false })).reg VF = 1 := by decide
/-- 2.3. -/
theorem test_subnReg : (after (withRegs (placed 0x8017) [(0, 3), (1, 5)])).reg 0 = 2 ∧
    (after (withRegs (placed 0x8017) [(0, 3), (1, 5)])).reg VF = 1 := by decide
/-- 2.3. -/
theorem test_shlReg : (after (withRegs (placed 0x801E) [(0, 0x40), (1, 0x81)])).reg 0 = 2 ∧
    (after (withRegs (placed 0x801E) [(0, 0x40), (1, 0x81)])).reg VF = 1 := by decide
/-- 2.3: VF is not written by a random draw into another register. -/
theorem test_rnd_frame : (after (withRegs (placed 0xC1FF) [(VF, 7)])).reg VF = 7 ∧ (after (placed 0xC1FF)).pc = 0x202 := by
  decide
/-- R121's example. -/
theorem test_ldI : (after (placed 0xA300)).i = 0x300 := by decide
/-- 2.4: the carry past 0xFFF is kept, the one past 0xFFFF is lost. -/
theorem test_addI : (after ((withRegs (placed 0xF21E) [(2, 5)]).setI 0x0FFE)).i = 0x1003 ∧
    (after ((withRegs (placed 0xF21E) [(2, 0xFF)]).setI 0xFFFF)).i = 0x00FE := by decide
/-- 2.4: not masked to a glyph. -/
theorem test_ldF : (after (withRegs (placed 0xF029) [(0, 5)])).i = 0x069 ∧
    (after (withRegs (placed 0xF029) [(0, 0xFF)])).i = 0x54B := by decide
/-- 2.4: BCD across the top of memory. -/
theorem test_ldB_wraps : (let t := after ((withRegs (placed 0xF033) [(0, 255)]).setI 0xFFE);
    (t.byteAt 0xFFE, t.byteAt 0xFFF, t.byteAt 0x000)) = (2, 5, 5) := by decide
/-- 2.4: under Fault nothing is stored. -/
theorem test_ldB_fault : (let t := after (faulting ((withRegs (placed 0xF033) [(0, 255)]).setI 0xFFE));
    (t.history, t.byteAt 0xFFE, t.pc)) = ([.boundsFault 0x1000], 0, 0x202) := by decide
/-- 2.4. -/
theorem test_ldIVx : (let t := after ((withRegs (placed 0xF355) [(0, 1), (1, 2), (2, 3), (3, 4), (4, 9)]).setI 0x300);
    ((List.range 5).map (fun k => t.byteAt (0x300 + k)), t.i)) = ([1, 2, 3, 4, 0], 0x300) := by decide
/-- 2.4: with `memory`. -/
theorem test_ldIVx_memory : (after (withQuirks ((placed 0xF355).setI 0x300)
    { vfReset := false, memory := true, shifting := false, jumping := false })).i = 0x304 := by decide
/-- 2.4: the word itself is loaded. -/
theorem test_ldVxI : (let t := after ((placed 0xFF65).setI 0x200); (t.reg 0, t.reg 1, t.reg 2, t.reg VF)) =
    (0xFF, 0x65, 0, 0) := by decide
/-- 2.5: clipped at the right edge. -/
theorem test_drw_clips : litIn (after (((withRegs (placed 0xD011) [(0, 62)]).setI 0x300).writeByte 0x300 0xFF)) 0
    = [62, 63] := by decide
/-- 2.5, L1.6: drawn again, the pixels go out and VF is 1. -/
theorem test_drw_collides : (let s := ((placed 0xD011).setI 0x300).writeByte 0x300 0xFF;
    let t := after ((after s).setPc 0x200); (litIn t 0, t.reg VF)) = ([], 1) := by decide
/-- 2.6. -/
theorem test_skp : (after { withRegs (placed 0xE19E) [(1, 5)] with keys := State.reset.keys.set 5 true }).pc = 0x204 := by
  decide
/-- 2.6: a key index above 0xF. -/
theorem test_skp_fault : (after (withRegs (placed 0xE19E) [(1, 0x15)])).history = [.boundsFault 0x15] := by decide
/-- 2.6. -/
theorem test_sknp : (after { withRegs (placed 0xE1A1) [(1, 5)] with keys := State.reset.keys.set 5 true }).pc = 0x202 := by
  decide
/-- 2.6. -/
theorem test_ldVxDT : (after ((placed 0xF307).setDT 0x3C)).reg 3 = 0x3C := by decide
/-- 2.6: no key is down. -/
theorem test_ldVxK_waits : after (placed 0xF30A) = placed 0xF30A := by decide
/-- L1.7: key 7 is down. -/
theorem test_ldVxK : (after { placed 0xF30A with keys := State.reset.keys.set 7 true }).reg 3 = 7 ∧
    (after { placed 0xF30A with keys := State.reset.keys.set 7 true }).pc = 0x202 := by
  refine ⟨?_, by decide⟩
  show (State.setReg _ 3 (BitVec.ofNat 8 (State.drawKey _ 7 []).val)).drawn.reg 3 = 7
  rw [State.reg_drawn, State.reg_setReg_self, List.mem_singleton.1 (State.drawKey_mem _ 7 [])]
  decide
/-- R139's example. -/
theorem test_ldDTVx : (after (withRegs (placed 0xF315) [(3, 0x3C)])).dt = 0x3C := by decide
/-- R140's example. -/
theorem test_ldSTVx : (after (withRegs (placed 0xF318) [(3, 2)])).st = 2 := by decide

/-! ## The host's operations (2.6, 2.7) -/

theorem test_tick_saturates : (onTimer (onTimer (State.reset.setDT 1))).dt = 0 := by decide
theorem test_tick_paused : (onTimer ((State.reset.setDT 5).setRun .paused)).dt = 4 := by decide
theorem test_toggle_terminated : (toggleExecution (State.reset.setRun .terminated)).run = .terminated := by decide
theorem test_reset_from_terminated : (hostReset (State.reset.setRun .terminated)).run = .running := by decide
theorem test_construct_too_big (rom : List Byte) (h : rom.length = 3585) :
    construct { defaultParams with rom := rom } = .fault (.romTooBig 3585) := by
  simp [construct, romFits, maxRom, memorySize, programBase, h]
theorem test_paused_step : after ((placed 0x6A9C).setRun .paused) = (placed 0x6A9C).setRun .paused := by decide
theorem test_empty_rom_first_step : (after State.reset).history = [.unknownInstruction 0x0000] := by decide

end Sys2Proof.Tests
end

