-- ==== Sys2Proof/Tests/Witnesses.lean ====
section
/-! SUPPORT. For every statement with hypotheses, a concrete state and operands that meet them together, clause by
clause, at a boundary where the clause has one. -/

namespace Sys2Proof.Tests

open Sys2Proof.Machine

/-- A machine with key 7 down. -/
def keyed (s : State) : State := { s with keys := State.reset.keys.set 7 true }

/-- A machine with a full stack. -/
def full (s : State) : State := { s with sp := 16 }

/-- Every quirk set. -/
def allQuirks : Quirks := { vfReset := true, memory := true, shifting := true, jumping := true }

/-- A sprite of one row at 0x300, to be drawn with V0 and V1. -/
def drawing : State := ((placed 0xD011).setI 0x300).writeByte 0x300 0xFF

/-! ## Encoding -/

theorem witness_DecodeOfEncodeIsIdentity : (Instr.jpV0 3 0x300).wellFormed = true := by decide
theorem witness_EncodeOfDecodeIsIdentity : decode 0xB300 = .ok (.jpV0 3 0x300) := by decide
theorem witness_DecodeAgreesWithOpcodeTable :
    decode 0xD125 = .ok (.drw 1 2 5) ∧ (∃ r ∈ opcodeTable, r.accepts 0xD125 = true) ∧
      ∀ r ∈ opcodeTable, r.accepts 0x5121 = false := by decide

/-! ## The step -/

theorem witness_StepRuns_notRunning : (State.reset.setRun .paused).run ≠ .running := by decide

/-- The fetch wraps at the top of memory: pc = 0xFFF, the bytes 0x12 there and 0x00 at 0x000 (2.2). -/
theorem witness_StepRuns_wraps : ∃ (s : State) (i : Instr), s.run = .running ∧ s.params.addrPolicy = .wrap12 ∧ s.pc = 0xFFF ∧
    decodeBytes (s.byteAt (s.pc.toNat % 4096)) (s.byteAt ((s.pc.toNat + 1) % 4096)) = .ok i :=
  ⟨(State.reset.writeByte 0xFFF 0x12).setPc 0xFFF, .jp 0x200, by decide⟩

/-- The last pc that Fault admits, 0xFFE. -/
theorem witness_StepRuns_fault : ∃ (s : State) (op : Word), s.run = .running ∧ s.params.addrPolicy = .fault ∧ s.pc.toNat + 1 < 4096 ∧
    decodeBytes (s.byteAt (s.pc.toNat % 4096)) (s.byteAt ((s.pc.toNat + 1) % 4096)) = .error (.unknown op) :=
  ⟨faulting (State.reset.setPc 0xFFE), 0, by decide⟩

theorem witness_FetchOutsideMemory_at_0xFFF : ∃ s : State, s.run = .running ∧ s.params.addrPolicy = .fault ∧
    4096 ≤ s.pc.toNat + 1 ∧ s.pc.toNat = 0xFFF := ⟨faulting (State.reset.setPc 0xFFF), by decide⟩
theorem witness_FetchOutsideMemory_above : ∃ s : State, s.run = .running ∧ s.params.addrPolicy = .fault ∧
    4096 ≤ s.pc.toNat + 1 ∧ s.pc.toNat ≠ 0xFFF := ⟨faulting (State.reset.setPc 0x1000), by decide⟩
theorem witness_UnknownWordIsRecordedPastIt : ∃ (s : State) (op : Word), s.run = .running ∧ s.fetch = .ok op ∧
    decode op = .error (.unknown op) := ⟨placed 0x5121, 0x5121, by decide⟩

theorem witness_StateAfterAnError_fetch : ∃ (s t : State) (e : StepError), step s = .next t ∧ Raised e s t ∧
    s.params.addrPolicy = .fault ∧ 4096 ≤ s.pc.toNat + 1 :=
  ⟨faulting (State.reset.setPc 0xFFF), _, .boundsFault 0x1000, rfl, by decide⟩
theorem witness_StateAfterAnError_later : ∃ (s t : State) (e : StepError), step s = .next t ∧ Raised e s t ∧
    ¬ (s.params.addrPolicy = .fault ∧ 4096 ≤ s.pc.toNat + 1) :=
  ⟨placed 0x00EE, _, .emptyStack, rfl, by decide⟩

theorem witness_Errors_overflow : ∃ (i : Instr) (s t : State), s.sp ≤ 16 ∧ exec i s = .next t ∧
    Raised .stackOverflow s t := ⟨.call 0x300, full State.reset, _, by decide, rfl, by decide⟩
theorem witness_Errors_empty : ∃ (i : Instr) (s t : State), s.sp ≤ 16 ∧ exec i s = .next t ∧
    Raised .emptyStack s t := ⟨.ret, State.reset, _, by decide, rfl, by decide⟩
theorem witness_Errors_address : ∃ (i : Instr) (s t : State), s.sp ≤ 16 ∧ exec i s = .next t ∧
    Raised (.boundsFault 0x1000) s t := ⟨.ldB 0, faulting (State.reset.setI 0xFFE), _, by decide, rfl, by decide⟩
theorem witness_Errors_key : ∃ (i : Instr) (s t : State), s.sp ≤ 16 ∧ exec i s = .next t ∧
    Raised (.boundsFault 16) s t := ⟨.skp 1, withRegs State.reset [(1, 16)], _, by decide, rfl, by decide⟩

/-! ## Whole-machine rules -/

theorem witness_NoInstructionWrites : ∃ (i : Instr) (s t : State), exec i s = .next t :=
  ⟨.call 0x300, State.reset, _, rfl⟩

theorem witness_OnlyNamed_screen : ∃ (i : Instr) (s t : State), exec i s = .next t ∧ t.fb ≠ s.fb :=
  ⟨.drw 0 1 1, drawing, _, rfl, by decide⟩
theorem witness_OnlyNamed_memory : ∃ (i : Instr) (s t : State), exec i s = .next t ∧ t.byteAt 0x300 ≠ s.byteAt 0x300 :=
  ⟨.ldIVx 0, withRegs (State.reset.setI 0x300) [(0, 7)], _, rfl, by decide⟩
theorem witness_OnlyNamed_stack : ∃ (i : Instr) (s t : State), exec i s = .next t ∧ t.sp ≠ s.sp ∧ t.stack ≠ s.stack :=
  ⟨.call 0x300, State.reset, _, rfl, by decide⟩
theorem witness_OnlyNamed_delay : ∃ (i : Instr) (s t : State), exec i s = .next t ∧ t.dt ≠ s.dt :=
  ⟨.ldDTVx 3, withRegs State.reset [(3, 7)], _, rfl, by decide⟩
theorem witness_OnlyNamed_sound : ∃ (i : Instr) (s t : State), exec i s = .next t ∧ t.st ≠ s.st :=
  ⟨.ldSTVx 3, withRegs State.reset [(3, 7)], _, rfl, by decide⟩
theorem witness_OnlyNamed_index : ∃ (i : Instr) (s t : State), exec i s = .next t ∧ t.i ≠ s.i :=
  ⟨.ldVxI 3, withQuirks State.reset allQuirks, _, rfl, by decide⟩

theorem witness_VfIsWritten : ∃ (i : Instr) (s t : State), exec i s = .next t ∧ t.reg VF ≠ s.reg VF :=
  ⟨.addReg 0 1, withRegs State.reset [(0, 0xFF), (1, 1)], _, rfl, by decide⟩
theorem witness_SoundTimer : ∃ s t : State, step s = .next t := ⟨placed 0xF318, _, rfl⟩
theorem witness_UnusedStackEntries : ∃ (s t : State) (k : Nat), k < 16 ∧ s.sp ≤ k ∧ step s = .next t :=
  ⟨{ placed 0x2300 with sp := 15 }, _, 15, by decide, by decide, rfl⟩
theorem witness_Quirks : ∃ (i : Instr) (s t : State),
    (∀ x y, i ≠ .orReg x y ∧ i ≠ .andReg x y ∧ i ≠ .xorReg x y ∧ i ≠ .shrReg x y ∧ i ≠ .shlReg x y) ∧
    (∀ x nnn, i ≠ .jpV0 x nnn) ∧ (∀ x, i ≠ .ldIVx x ∧ i ≠ .ldVxI x) ∧ exec i s = .next t :=
  ⟨.addReg 0 1, State.reset, _, by simp, by simp, by simp, rfl⟩

/-! ## Invariants -/

theorem witness_EveryStepKeepsTheInvariant : ∃ s t : State, s.Inv ∧ step s = .next t :=
  ⟨placed 0x2300, _, by decide, rfl⟩
theorem witness_EveryReachableState : ∃ (p : Params) (s t : State) (ops : List HostOp),
    construct p = .next s ∧ hostRun ops s = .next t ∧ ops.length = 2 :=
  ⟨defaultParams, _, _, [.keyDown 3, .step], rfl, rfl, rfl⟩
theorem witness_CanonicalMemory : Memory.wf defaultParams (Memory.write defaultParams [] 0x300 7) ∧
    Memory.wf defaultParams [(0x300, 7)] ∧
    ∀ a, Memory.read defaultParams (Memory.write defaultParams [] 0x300 7) a = Memory.read defaultParams [(0x300, 7)] a :=
  ⟨by decide, by decide, fun _ => rfl⟩

/-! ## Control transfer -/

theorem witness_Ret_one : ∃ s : State, 0 < s.sp ∧ s.sp ≤ 16 ∧ s.sp = 1 := ⟨{ State.reset with sp := 1 }, by decide⟩
theorem witness_Ret_full : ∃ s : State, 0 < s.sp ∧ s.sp ≤ 16 ∧ s.sp = 16 := ⟨full State.reset, by decide⟩
theorem witness_Ret_empty : State.reset.sp = 0 := by decide
theorem witness_Call_last : ∃ s : State, s.sp < 16 ∧ s.sp = 15 := ⟨{ State.reset with sp := 15 }, by decide⟩
theorem witness_Call_full : (full State.reset).sp = 16 := by decide
theorem witness_Stack_sixteen : ∃ (s : State) (ws : List Word), s.sp + ws.length ≤ 16 ∧ ws.length = 16 :=
  ⟨State.reset, List.replicate 16 7, by decide⟩

theorem witness_KeySkips_last : ∃ (s : State) (x : Reg), (s.reg x).toNat ≤ 15 ∧ (s.reg x).toNat = 15 :=
  ⟨withRegs State.reset [(1, 15)], 1, by decide⟩
theorem witness_KeySkips_masked : ∃ (s : State) (x : Reg), s.params.keyIndex = .mask4 ∧ (s.reg x).toNat = 16 :=
  ⟨masking (withRegs State.reset [(1, 16)]), 1, by decide⟩
theorem witness_KeySkips_fault : ∃ (s : State) (x : Reg), 15 < (s.reg x).toNat ∧ s.params.keyIndex = .fault ∧
    (s.reg x).toNat = 16 := ⟨withRegs State.reset [(1, 16)], 1, by decide⟩

/-! ## Registers -/

theorem witness_Bitwise_plain : ∃ (s : State) (x y : Reg) (i : Instr) (f : Bool → Bool → Bool),
    i = .orReg x y ∧ f = or ∧ s.params.quirks.vfReset = false := ⟨State.reset, 1, 2, .orReg 1 2, or, rfl, rfl, rfl⟩
theorem witness_Bitwise_vfReset : ∃ (s : State) (x y : Reg) (i : Instr) (f : Bool → Bool → Bool),
    i = .andReg x y ∧ f = and ∧ s.params.quirks.vfReset = true ∧ x ≠ VF :=
  ⟨withQuirks State.reset allQuirks, 1, 2, .andReg 1 2, and, rfl, rfl, rfl, by decide⟩
theorem witness_Bitwise_vf : ∃ (s : State) (x y : Reg) (i : Instr) (f : Bool → Bool → Bool),
    i = .xorReg x y ∧ f = xor ∧ s.params.quirks.vfReset = true ∧ x = VF :=
  ⟨withQuirks State.reset allQuirks, VF, 2, .xorReg VF 2, xor, rfl, rfl, rfl, rfl⟩
theorem witness_Flags_vf_flagThenResult : ∃ (s : State) (x : Reg), x = VF ∧ s.params.vfOrder = .flagThenResult :=
  ⟨State.reset, VF, by decide⟩
theorem witness_Flags_vf_resultThenFlag : ∃ (s : State) (x : Reg), x = VF ∧ s.params.vfOrder = .resultThenFlag :=
  ⟨flagLast State.reset, VF, by decide⟩
theorem witness_Shifts_shifting : ∃ (s : State) (x y : Reg), s.params.quirks.shifting = true ∧
    128 = (s.reg (if s.params.quirks.shifting then x else y)).toNat :=
  ⟨withQuirks (withRegs State.reset [(0, 0x80), (1, 1)]) allQuirks, 0, 1, by decide⟩
theorem witness_Shifts_plain : ∃ (s : State) (x y : Reg), s.params.quirks.shifting = false ∧
    1 = (s.reg (if s.params.quirks.shifting then x else y)).toNat :=
  ⟨withRegs State.reset [(0, 0x80), (1, 1)], 0, 1, by decide⟩

/-! ## Memory transfers -/

theorem witness_Bcd_wraps : ∃ s : State, s.transferAllowed 3 ∧ s.i = 0xFFE := ⟨State.reset.setI 0xFFE, by decide⟩
theorem witness_Bcd_fault : ∃ s : State, s.transferAllowed 3 ∧ s.params.addrPolicy = .fault ∧ s.i = 0xFFD :=
  ⟨faulting (State.reset.setI 0xFFD), by decide⟩
theorem witness_Dump_all : ∃ (s : State) (x : Reg), s.transferAllowed (x.val + 1) ∧ s.params.addrPolicy = .fault ∧
    x = 15 ∧ s.i = 0xFF0 := ⟨faulting (State.reset.setI 0xFF0), 15, by decide⟩
theorem witness_Load_one : ∃ (s : State) (x : Reg), s.transferAllowed (x.val + 1) ∧ x = 0 ∧ s.i = 0x1FFF :=
  ⟨State.reset.setI 0x1FFF, 0, by decide⟩
theorem witness_Denied_bcd : ∃ (s : State) (i : Instr) (count : Nat), (i = .ldB 0 ∧ count = 3) ∧
    s.params.addrPolicy = .fault ∧ 0 < count ∧ 4096 < s.i.toNat + count :=
  ⟨faulting (State.reset.setI 0xFFE), .ldB 0, 3, ⟨rfl, rfl⟩, by decide⟩
theorem witness_Denied_dump : ∃ (s : State) (i : Instr) (count : Nat), (i = .ldIVx 0 ∧ count = 1) ∧
    s.params.addrPolicy = .fault ∧ 0 < count ∧ 4096 < s.i.toNat + count :=
  ⟨faulting (State.reset.setI 0x1000), .ldIVx 0, 1, ⟨rfl, rfl⟩, by decide⟩
theorem witness_Denied_load : ∃ (s : State) (i : Instr) (count : Nat), (i = .ldVxI 15 ∧ count = 16) ∧
    s.params.addrPolicy = .fault ∧ 0 < count ∧ 4096 < s.i.toNat + count :=
  ⟨faulting (State.reset.setI 0xFF1), .ldVxI 15, 16, ⟨rfl, rfl⟩, by decide⟩
theorem witness_Denied_draw : ∃ (s : State) (i : Instr) (count : Nat), (i = .drw 0 1 2 ∧ count = (2 : Nibble).toNat) ∧
    s.params.addrPolicy = .fault ∧ 0 < count ∧ 4096 < s.i.toNat + count :=
  ⟨faulting (State.reset.setI 0xFFF), .drw 0 1 2, 2, ⟨rfl, rfl⟩, by decide⟩
theorem witness_LoadAfterDump : ∃ (s t : State) (x r : Reg), s.transferAllowed (x.val + 1) ∧ r ≤ x ∧
    exec (.ldIVx x) s = .next t := ⟨withRegs (State.reset.setI 0x300) [(0, 7), (1, 9)], _, 1, 0, by decide, by decide, rfl⟩
theorem witness_StoredWord : ∃ (s t : State) (i : Instr), s.run = .running ∧ s.i.toNat = s.pc.toNat ∧
    s.transferAllowed 2 ∧ decodeBytes (s.reg 0) (s.reg 1) = .ok i ∧ exec (.ldIVx 1) s = .next t :=
  ⟨withRegs ((State.reset.setI 0x208).setPc 0x208) [(0, 0x6A), (1, 0xFF)], _, .ldByte 0xA 0xFF,
    by decide, by decide, by decide, by decide, rfl⟩

/-! ## The display -/

theorem witness_Draw_collides : ∃ (s : State) (x y : Reg) (n : Nibble), s.transferAllowed n.toNat ∧ s.collides x y n :=
  ⟨{ drawing with fb := (blitPixel (blankScreen, false) 0 7 true).1 }, 0, 1, 1, by decide, 0, 7, by decide⟩
theorem witness_Draw_misses : ∃ (s : State) (x y : Reg) (n : Nibble), s.transferAllowed n.toNat ∧ ¬ s.collides x y n := by
  refine ⟨drawing, 0, 1, 1, by decide, ?_⟩
  rintro ⟨row, col, -, -, h, -⟩
  have : pixelAt drawing.fb row col = false := pixelAt_blankScreen row col
  rw [this] at h; cases h
theorem witness_Draw_nothing : ∃ (s : State) (n : Nibble), s.transferAllowed n.toNat ∧ s.params.addrPolicy = .fault ∧
    n = 0 ∧ s.i = 0xFFFF := ⟨faulting (State.reset.setI 0xFFFF), 0, by decide⟩
theorem witness_DrawingTwice : ∃ (s t u : State) (x y : Reg) (n : Nibble), x ≠ VF ∧ y ≠ VF ∧
    s.transferAllowed n.toNat ∧ exec (.drw x y n) s = .next t ∧ exec (.drw x y n) t = .next u :=
  ⟨drawing, _, _, 0, 1, 1, by decide, by decide, by decide, rfl, rfl⟩

/-! ## The keypad and the timers -/

theorem witness_KeyWait_none : ∀ k : Reg, State.reset.keys[k] = false := by decide
theorem witness_KeyWait_some : ∃ k : Reg, (keyed State.reset).keys[k] = true := ⟨7, by decide⟩
theorem witness_KeyWaitStalls : ∃ (s : State) (x : Reg), s.run = .running ∧ s.fetch = .ok (encode (.ldVxK x)) ∧
    ∀ k : Reg, s.keys[k] = false := ⟨placed 0xF30A, 3, by decide⟩
theorem witness_Ticks_counted : State.reset.params.timerGated = false := by decide
theorem witness_Ticks_gated : ∃ s : State, s.params.timerGated = true ∧ s.run ≠ .running :=
  ⟨{ State.reset with params := { defaultParams with timerGated := true }, run := .paused }, by decide⟩
theorem witness_Ticks_gated_running : ∃ s : State, s.params.timerGated = true ∧ s.run = .running :=
  ⟨{ State.reset with params := { defaultParams with timerGated := true } }, by decide⟩

/-! ## The host interface -/

theorem witness_Lifecycle : State.reset.run = .running ∧ (State.reset.setRun .paused).run = .paused ∧
    (State.reset.setRun .terminated).run = .terminated := by decide
theorem witness_TerminatedUntilReset : ∃ (s t : State) (ops : List HostOp), s.run = .terminated ∧ HostOp.reset ∉ ops ∧
    hostRun ops s = .next t ∧ ops.length = 3 :=
  ⟨State.reset.setRun .terminated, _, [.keyDown 15, .onTimer, .step], rfl, by decide, rfl, rfl⟩
theorem witness_KeyEvents_last : ∃ (code : Nat) (op : HostOp) (down : Bool), code ≤ 15 ∧ code = 15 ∧
    op = .keyDown code ∧ down = true := ⟨15, .keyDown 15, true, by decide⟩
theorem witness_KeyEvents_up : ∃ (code : Nat) (op : HostOp) (down : Bool), code ≤ 15 ∧ code = 0 ∧
    op = .keyUp code ∧ down = false := ⟨0, .keyUp 0, false, by decide⟩
theorem witness_KeyEvents_refused : ∃ code : Nat, 15 < code ∧ code = 16 := ⟨16, by decide⟩
theorem witness_Construct_tooBig : ∃ p : Params, 3584 < p.rom.length ∧ p.rom.length = 3585 :=
  ⟨{ defaultParams with rom := List.replicate 3585 0 }, by simp only [List.length_replicate]; decide⟩
theorem witness_Construct_fontHigh : ∃ p : Params, p.rom.length ≤ 3584 ∧ 0x200 < p.fontBase.toNat + 80 ∧
    p.fontBase = 0x1B1 := ⟨{ defaultParams with fontBase := 0x1B1 }, by decide⟩
theorem witness_Construct_largest : ∃ p : Params, p.rom.length ≤ 3584 ∧ p.fontBase.toNat + 80 ≤ 0x200 ∧
    p.rom.length = 3584 ∧ p.fontBase = 0x1B0 :=
  ⟨{ defaultParams with rom := List.replicate 3584 0, fontBase := 0x1B0 },
    by simp only [List.length_replicate]; decide⟩
theorem witness_ConstructedMemory : ∃ (p : Params) (s : State), construct p = .next s ∧ p.rom.length = 2 :=
  ⟨{ defaultParams with rom := [0x12, 0x00] }, _, rfl, rfl⟩
theorem witness_ConstructedState : ∃ (p : Params) (s : State), construct p = .next s ∧ p.initialRun = .paused :=
  ⟨{ defaultParams with initialRun := .paused }, _, rfl, rfl⟩
theorem witness_ResetRestores : ∃ (p : Params) (s s0 : State), construct p = .next s0 ∧ s.params = p ∧
    s.run = .terminated ∧ s.i ≠ s0.i :=
  ⟨defaultParams, (State.reset.setI 7).setRun .terminated, _, rfl, rfl, rfl, by decide⟩
theorem witness_ErrorHistory : ∃ (ops : List HostOp) (s t : State), hostRun ops s = .next t ∧ ops.length = 2 :=
  ⟨[.step, .reset], State.reset, _, rfl, rfl⟩

/-! ## Ends of a run -/

theorem witness_SelfJump : (placed 0x1200).selfJump = true := by decide
theorem witness_PlacedWord : decodeTableWord 16 0xD125 = some (.drw 1 2 5) := by decide

end Sys2Proof.Tests
end

section
/-! SUPPORT. Frames: what each update of the state changes, and how frames compose. -/

namespace Sys2Proof.Machine

/-- Two changes one after the other change what either may change. -/
theorem ChangesOnly.trans {ps qs : List Part} {s t u : State} (hst : ChangesOnly ps s t)
    (htu : ChangesOnly qs t u) : ChangesOnly (ps ++ qs) s u := by
  intro p hp
  rw [List.mem_append, not_or] at hp
  have h₁ := hst p hp.1
  have h₂ := htu p hp.2
  cases p <;> exact Eq.trans h₂ h₁

theorem ChangesOnly.mono {ps qs : List Part} {s t : State} (h : ChangesOnly ps s t) (sub : ps ⊆ qs) :
    ChangesOnly qs s t := fun p hp => h p fun hps => hp (sub hps)

variable (s : State)

theorem changesOnly_setReg (r : Reg) (b : Byte) : ChangesOnly [.reg r] s (s.setReg r b) := by
  intro p hp
  cases p with
  | reg q =>
    have hq : r ≠ q := by rintro rfl; exact hp (List.mem_singleton.2 rfl)
    exact (s.reg_setReg r q b).trans (if_neg hq)
  | _ => rfl

theorem changesOnly_setPc (w : Word) : ChangesOnly [.pc] s (s.setPc w) := by
  intro p hp
  cases p with
  | pc => exact absurd (List.mem_singleton.2 rfl) hp
  | _ => rfl

theorem changesOnly_drawn : ChangesOnly [.draws] s s.drawn := by
  intro p hp
  cases p with
  | draws => exact absurd (List.mem_singleton.2 rfl) hp
  | _ => rfl

theorem changesOnly_screen (fb : Framebuffer) : ChangesOnly [.screen] s { s with fb := fb } := by
  intro p hp
  cases p with
  | screen => exact absurd (List.mem_singleton.2 rfl) hp
  | _ => rfl

end Sys2Proof.Machine
end

section
/-! SUPPORT. The blitter of R129 as one XOR of the screen with a mask: each pixel, byte and sprite is a mask, and masks
that do not overlap compose. -/

namespace Sys2Proof.Machine

/-- From the screen and flag `acc` to `acc'` every pixel is XORed with its bit of `mask`, and the flag is raised exactly
where a lit pixel lies under a set bit (R129, R131). -/
def Blits (mask : Nat → Nat → Bool) (acc acc' : Framebuffer × Bool) : Prop :=
  (∀ row col, row < 32 → col < 64 → pixelAt acc'.1 row col = (pixelAt acc.1 row col ^^ mask row col)) ∧
  (acc'.2 = true ↔ acc.2 = true ∨
    ∃ row col, row < 32 ∧ col < 64 ∧ pixelAt acc.1 row col = true ∧ mask row col = true)

/-- The mask of one pixel of a sprite. -/
def pixelMask (row col : Nat) (src : Bool) (r c : Nat) : Bool := decide (r = row ∧ c = col) && src

/-- The mask of the `m` leftmost pixels of a byte of a sprite. -/
def byteMask (row ox m : Nat) (b : Byte) (r c : Nat) : Bool :=
  decide (r = row ∧ ox ≤ c ∧ c < ox + m) && b.getLsbD (7 - (c - ox))

/-- The mask of the bytes of a sprite, one a row. -/
def rowsMask (row ox : Nat) (bs : List Byte) (r c : Nat) : Bool :=
  decide (row ≤ r ∧ r < row + bs.length ∧ ox ≤ c ∧ c < ox + 8) &&
    (bs.getD (r - row) 0).getLsbD (7 - (c - ox))

theorem Blits.refl (acc : Framebuffer × Bool) : Blits (fun _ _ => false) acc acc := by
  simp [Blits]

/-- Masks that do not overlap compose: the second finds the pixels under it as they were. -/
theorem Blits.trans {m₁ m₂ : Nat → Nat → Bool} {a b c : Framebuffer × Bool} (hab : Blits m₁ a b)
    (hbc : Blits m₂ b c) (disjoint : ∀ row col, m₁ row col = true → m₂ row col = false) :
    Blits (fun row col => m₁ row col || m₂ row col) a c := by
  obtain ⟨pixel₁, hit₁⟩ := hab
  obtain ⟨pixel₂, hit₂⟩ := hbc
  have kept : ∀ row col, row < 32 → col < 64 → m₂ row col = true →
      pixelAt b.1 row col = pixelAt a.1 row col := by
    intro row col hr hc h₂
    have h₁ : m₁ row col = false := Bool.eq_false_iff.2 fun h => by
      rw [disjoint row col h] at h₂; cases h₂
    rw [pixel₁ row col hr hc, h₁, Bool.xor_false]
  constructor
  · intro row col hr hc
    rw [pixel₂ row col hr hc, pixel₁ row col hr hc]
    beta_reduce
    cases h₁ : m₁ row col
    · simp
    · simp [disjoint row col h₁]
  · rw [hit₂, hit₁, or_assoc]
    refine or_congr_right ⟨?_, ?_⟩
    · rintro (⟨row, col, hr, hc, lit, h₁⟩ | ⟨row, col, hr, hc, lit, h₂⟩)
      · exact ⟨row, col, hr, hc, lit, by simp [h₁]⟩
      · exact ⟨row, col, hr, hc, kept row col hr hc h₂ ▸ lit, by simp [h₂]⟩
    · rintro ⟨row, col, hr, hc, lit, h⟩
      rcases Bool.or_eq_true_iff.1 h with h₁ | h₂
      · exact .inl ⟨row, col, hr, hc, lit, h₁⟩
      · exact .inr ⟨row, col, hr, hc, (kept row col hr hc h₂).trans lit, h₂⟩

theorem blits_blitPixel (acc : Framebuffer × Bool) (row col : Nat) (src : Bool) :
    Blits (pixelMask row col src) acc (blitPixel acc row col src) := by
  constructor
  · intro r c hr hc
    unfold pixelMask
    by_cases on : row < 32 ∧ col < 64
    · rw [pixelAt_blitPixel acc src on]
      by_cases here : r = row ∧ c = col
      · obtain ⟨rfl, rfl⟩ := here; simp
      · rw [if_neg (by simpa only [eq_comm] using here)]; simp [here]
    · have here : ¬ (r = row ∧ c = col) := by rintro ⟨rfl, rfl⟩; exact on ⟨hr, hc⟩
      rw [blitPixel_clipped acc src on]; simp [here]
  · rw [hit_blitPixel, Bool.or_eq_true_iff, Bool.and_eq_true_iff]
    refine or_congr_right ⟨fun ⟨set, lit⟩ => ?_, ?_⟩
    · by_cases on : row < 32 ∧ col < 64
      · exact ⟨row, col, on.1, on.2, lit, by simp [pixelMask, set]⟩
      · rw [pixelAt, dif_neg on] at lit; cases lit
    · rintro ⟨r, c, -, -, lit, h⟩
      obtain ⟨⟨rfl, rfl⟩, set⟩ : (r = row ∧ c = col) ∧ src = true := by simpa [pixelMask] using h
      exact ⟨set, lit⟩

/-- Pixel `m` beside the `m` pixels left of it. -/
theorem byteMask_succ (row ox m : Nat) (b : Byte) :
    byteMask row ox (m + 1) b = fun r c =>
      byteMask row ox m b r c || pixelMask row (ox + m) (b.getLsbD (7 - m)) r c := by
  funext r c
  unfold byteMask pixelMask
  by_cases last : c = ox + m
  · subst last; simp
  · have : c < ox + (m + 1) ↔ c < ox + m := by omega
    simp [last, this]

/-- The `m` leftmost pixels of a byte, by induction on `m`. -/
theorem blits_leftmost (acc : Framebuffer × Bool) (row ox : Nat) (b : Byte) (m : Nat) :
    Blits (byteMask row ox m b) acc
      ((List.range m).foldl (fun acc k => blitPixel acc row (ox + k) (b.getLsbD (7 - k))) acc) := by
  induction m with
  | zero =>
    have empty : byteMask row ox 0 b = fun _ _ => false := by
      funext r c
      have : ¬ (r = row ∧ ox ≤ c ∧ c < ox) := by omega
      simp [byteMask, this]
    rw [empty]; exact Blits.refl acc
  | succ m ih =>
    rw [List.range_succ, List.foldl_append, byteMask_succ]
    refine ih.trans (blits_blitPixel _ _ _ _) fun r c h => ?_
    have left : c < ox + m := by
      simp only [byteMask, Bool.and_eq_true, decide_eq_true_eq] at h; exact h.1.2.2
    simp [pixelMask, show c ≠ ox + m by omega]

theorem blits_blitByte (acc : Framebuffer × Bool) (row ox : Nat) (b : Byte) :
    Blits (byteMask row ox 8 b) acc (blitByte acc row ox b) := blits_leftmost acc row ox b 8

/-- The first row of a sprite above the rows below it. -/
theorem rowsMask_cons (row ox : Nat) (b : Byte) (bs : List Byte) :
    rowsMask row ox (b :: bs) = fun r c => byteMask row ox 8 b r c || rowsMask (row + 1) ox bs r c := by
  funext r c
  unfold rowsMask byteMask
  rcases Nat.lt_trichotomy r row with above | rfl | below
  · simp [show ¬ row ≤ r by omega, show r ≠ row by omega, show ¬ row + 1 ≤ r by omega]
  · simp
  · have next : r - row = r - (row + 1) + 1 := by omega
    simp only [next, List.getD_cons_succ, List.length_cons, show r ≠ row by omega, false_and, decide_false,
      Bool.false_and, Bool.false_or]
    congr 2
    simp only [eq_iff_iff]; omega

/-- A whole sprite, by induction on its bytes (R129). -/
theorem blits_blitRows (acc : Framebuffer × Bool) (row ox : Nat) (bs : List Byte) :
    Blits (rowsMask row ox bs) acc (blitRows acc row ox bs) := by
  induction bs generalizing acc row with
  | nil =>
    have empty : rowsMask row ox [] = fun _ _ => false := by
      funext r c
      have : ¬ (row ≤ r ∧ r < row ∧ ox ≤ c ∧ c < ox + 8) := by omega
      simp [rowsMask, this]
    rw [empty]; exact Blits.refl acc
  | cons b bs ih =>
    rw [blitRows, rowsMask_cons]
    refine (blits_blitByte acc row ox b).trans (ih _ _) fun r c h => ?_
    have here : r = row := by
      simp only [byteMask, Bool.and_eq_true, decide_eq_true_eq] at h; exact h.1.1
    simp [rowsMask, here]

/-- The bytes DRW reads, as a mask at its origin, are the sprite bits of R129. -/
theorem rowsMask_transferBytes (s : State) (x y : Reg) (n : Nibble) :
    rowsMask (s.originRow y) (s.originCol x) ((s.transferBytes n.toNat).map s.byteAt) = s.spriteBit x y n := by
  funext r c
  unfold rowsMask State.spriteBit State.originRow State.originCol
  rw [List.length_map, State.length_transferBytes]
  by_cases inside : (s.reg y).toNat % 32 ≤ r ∧ r < (s.reg y).toNat % 32 + n.toNat
  · rw [List.getD_eq_getElem _ _ (by rw [List.length_map, State.length_transferBytes]; omega),
      List.getElem_map, State.getElem_transferBytes]
  · rw [decide_eq_false fun h => inside ⟨h.1, h.2.1⟩, Bool.false_and, Bool.false_and]

/-- DRW's screen is the old one XORed with the sprite, and its flag says whether the sprite collides (R129, R131). -/
theorem State.blits_drawSprite (s : State) (x y : Reg) (n : Nibble) :
    Blits (s.spriteBit x y n) (s.fb, false) (s.drawSprite x y ((s.transferBytes n.toNat).map s.byteAt)) := by
  rw [← rowsMask_transferBytes]
  exact blits_blitRows _ _ _ _

/-- Settles O43: DRW is one blit of the sprite, read at the addresses of an allowed transfer. -/
theorem drawXorsTheSpriteAndReportsCollision : Obligations.DrawXorsTheSpriteAndReportsCollision := by
  intro s x y n allowed
  obtain ⟨pixels, hit⟩ := s.blits_drawSprite x y n
  have hit : _ ↔ s.collides x y n := hit.trans (by simp [State.collides])
  refine ⟨_, s.transfer_allowed _ allowed, pixels, fun h => ?_, fun h => ?_, ?_⟩
  · rw [State.reg_setReg_self, hit.2 h]; rfl
  · rw [State.reg_setReg_self, Bool.eq_false_iff.2 (mt hit.1 h)]; rfl
  · exact ((changesOnly_screen s _).trans (changesOnly_setReg _ VF _)).mono (by simp)

end Sys2Proof.Machine
end

section
/-! SUPPORT. The random byte and the key wait (R118, R138). -/

namespace Sys2Proof.Machine

/-- A register written and a draw made, and nothing else. -/
theorem changesOnly_setReg_drawn (s : State) (r : Reg) (b : Byte) :
    ChangesOnly [.reg r, .draws] s (s.setReg r b).drawn :=
  (changesOnly_setReg s r b).trans (changesOnly_drawn _)

/-- Settles O34: whatever byte is drawn, the mask 0 clears it. -/
theorem randomByteIsMasked : Obligations.RandomByteIsMasked := by
  intro s x nn
  have written : (s.setReg x (nn &&& s.drawByte)).drawn.reg x = nn &&& Config.drawByte s.draws := by
    rw [State.reg_drawn, State.reg_setReg_self]; rfl
  refine ⟨_, rfl, written, rfl, ?_, changesOnly_setReg_drawn s x _⟩
  rintro rfl
  exact written.trans BitVec.zero_and

/-- With no key down LD Vx, K rewinds pc (R138). -/
theorem execLdVxK_of_no_key {s : State} (x : Reg) (up : ∀ k : Reg, s.keys[k] = false) :
    execLdVxK x s = .next s.rewind := by
  have none : s.pressed = [] := List.eq_nil_iff_forall_not_mem.2 fun k hk => by
    rw [s.mem_pressed, up k] at hk; cases hk
  rw [execLdVxK, none]

/-- With a key down LD Vx, K takes one that is down, and makes a draw (R138). -/
theorem execLdVxK_of_key {s : State} (x : Reg) (down : ∃ k : Reg, s.keys[k] = true) :
    ∃ k : Reg, s.keys[k] = true ∧ execLdVxK x s = .next (s.setReg x (BitVec.ofNat 8 k.val)).drawn := by
  obtain ⟨k, hk⟩ := down
  have mem := s.mem_pressed.2 hk
  unfold execLdVxK
  cases hp : s.pressed with
  | nil => rw [hp] at mem; cases mem
  | cons first rest =>
    exact ⟨s.drawKey first rest, s.mem_pressed.1 (hp ▸ s.drawKey_mem first rest), rfl⟩

/-- Settles O45: the keys down are none, or the key drawn is one of them. -/
theorem keyWaitTakesAPressedKey : Obligations.KeyWaitTakesAPressedKey := by
  intro s x
  constructor
  · intro up
    refine ⟨_, execLdVxK_of_no_key x up, ?_, changesOnly_setPc s _⟩
    rw [State.rewind_pc]; bv_omega
  · intro down
    obtain ⟨k, hk, taken⟩ := execLdVxK_of_key x down
    refine ⟨_, taken, ⟨k, hk, ?_⟩, rfl, changesOnly_setReg_drawn s x _⟩
    rw [State.reg_drawn, State.reg_setReg_self, BitVec.toNat_ofNat]
    omega

end Sys2Proof.Machine
end

section
/-! SUPPORT. The quirks (R6, R119): setting them commutes with every instruction that is not theirs. -/

namespace Sys2Proof.Machine

/-- The machine with its quirks set to `q`, and nothing else. -/
def State.withQuirks (s : State) (q : Quirks) : State :=
  { s with params := { s.params with quirks := q } }

/-- A result with its next state changed by `f`. -/
def mapNext (f : State → State) : Result → Result
  | .next t => .next (f t)
  | .fault r => .fault r
  | .refused r => .refused r

/-- The instructions whose meaning reads a quirk (R6). -/
def readsQuirk : Instr → Bool
  | .orReg _ _ | .andReg _ _ | .xorReg _ _ | .shrReg _ _ | .shlReg _ _ | .jpV0 _ _ | .ldIVx _ | .ldVxI _ => true
  | _ => false

variable (s : State) (q : Quirks)

/-- No quirk is part of what memory reads. -/
@[simp] theorem State.byteAt_withQuirks : (s.withQuirks q).byteAt = s.byteAt := by
  funext a
  change Memory.read _ s.mem a = Memory.read _ s.mem a
  induction s.mem with
  | nil => rfl
  | cons c rest ih => simp only [Memory.read, ih]

theorem State.writeBytes_withQuirks (as : List Nat) (bs : List Byte) :
    (s.withQuirks q).writeBytes as bs = (s.writeBytes as bs).withQuirks q := by
  induction as generalizing s bs with
  | nil => rfl
  | cons a as ih =>
    cases bs with
    | nil => rfl
    | cons b bs => exact ih (s.writeByte a b) bs

theorem State.writeResultFlag_withQuirks (x : Reg) (r f : Byte) :
    (s.withQuirks q).writeResultFlag x r f = (s.writeResultFlag x r f).withQuirks q := by
  have same : (s.withQuirks q).params.vfOrder = s.params.vfOrder := rfl
  unfold State.writeResultFlag
  rw [same]
  cases s.params.vfOrder <;> rfl

theorem State.skipIf_withQuirks (c : Bool) :
    (s.withQuirks q).skipIf c = mapNext (·.withQuirks q) (s.skipIf c) := by
  cases c <;> rfl

theorem State.keySkip_withQuirks (x : Reg) (down : Bool) :
    (s.withQuirks q).keySkip x down = mapNext (·.withQuirks q) (s.keySkip x down) := by
  have same : keyIndex (s.withQuirks q).params.keyIndex ((s.withQuirks q).reg x) =
    keyIndex s.params.keyIndex (s.reg x) := rfl
  unfold State.keySkip
  rw [same]
  cases keyIndex s.params.keyIndex (s.reg x) with
  | error e => rfl
  | ok k => exact s.skipIf_withQuirks q _

/-- A transfer checks its addresses alike, so it commutes where what runs on the addresses does. -/
theorem State.transfer_withQuirks (count : Nat) {k k' : List Nat → State}
    (hk : ∀ addrs, k' addrs = (k addrs).withQuirks q) :
    (s.withQuirks q).transfer count k' = mapNext (·.withQuirks q) (s.transfer count k) := by
  have same : transferAddrs (s.withQuirks q).params.addrPolicy (s.withQuirks q).i.toNat count =
    transferAddrs s.params.addrPolicy s.i.toNat count := rfl
  unfold State.transfer
  rw [same]
  cases transferAddrs s.params.addrPolicy s.i.toNat count with
  | error e => rfl
  | ok addrs => exact congrArg _ (hk addrs)

theorem execRet_withQuirks : execRet (s.withQuirks q) = mapNext (·.withQuirks q) (execRet s) := by
  rcases Nat.eq_zero_or_pos s.sp with empty | pos
  · rw [execRet, execRet, s.pop_of_empty empty, (s.withQuirks q).pop_of_empty empty]; rfl
  · rw [execRet, execRet, s.pop_of_pos pos, (s.withQuirks q).pop_of_pos pos]; rfl

theorem execCall_withQuirks (nnn : Address) :
    execCall nnn (s.withQuirks q) = mapNext (·.withQuirks q) (execCall nnn s) := by
  rcases Nat.lt_or_ge s.sp 16 with room | full
  · rw [execCall, execCall, s.push_of_lt room, (s.withQuirks q).push_of_lt room]; rfl
  · rw [execCall, execCall, s.push_of_full full, (s.withQuirks q).push_of_full full]; rfl

theorem execDrw_withQuirks (x y : Reg) (n : Nibble) :
    execDrw x y n (s.withQuirks q) = mapNext (·.withQuirks q) (execDrw x y n s) :=
  s.transfer_withQuirks q _ fun addrs => by rw [State.byteAt_withQuirks]; rfl

theorem execLdVxK_withQuirks (x : Reg) :
    execLdVxK x (s.withQuirks q) = mapNext (·.withQuirks q) (execLdVxK x s) := by
  have same : (s.withQuirks q).pressed = s.pressed := rfl
  unfold execLdVxK
  rw [same]
  cases s.pressed <;> rfl

/-- An instruction that reads no quirk does the same under every setting of them (R6, R119). -/
theorem exec_withQuirks {i : Instr} (h : readsQuirk i = false) :
    exec i (s.withQuirks q) = mapNext (·.withQuirks q) (exec i s) := by
  cases i with
  | orReg | andReg | xorReg | shrReg | shlReg | jpV0 | ldIVx | ldVxI => cases h
  | cls | jp | ldByte | addByte | ldReg | ldI | rnd | ldVxDT | ldDTVx | ldSTVx | addI | ldF => rfl
  | seByte | sneByte | seReg | sneReg => exact s.skipIf_withQuirks q _
  | skp | sknp => exact s.keySkip_withQuirks q _ _
  | addReg | subReg | subnReg => exact congrArg _ (s.writeResultFlag_withQuirks q _ _ _)
  | ret => exact execRet_withQuirks s q
  | call nnn => exact execCall_withQuirks s q nnn
  | drw x y n => exact execDrw_withQuirks s q x y n
  | ldVxK x => exact execLdVxK_withQuirks s q x
  | ldB x => exact s.transfer_withQuirks q _ fun addrs => s.writeBytes_withQuirks q addrs _

theorem changesOnly_withQuirks : ChangesOnly [.params] s (s.withQuirks q) := by
  intro p hp
  cases p with
  | params => exact absurd (List.mem_singleton.2 rfl) hp
  | byte a => exact congrFun (s.byteAt_withQuirks q) a
  | _ => rfl

/-- Settles O17: an instruction outside the list reads no quirk, so setting them commutes with it. -/
theorem quirksChangeOnlyTheirInstructions : Obligations.QuirksChangeOnlyTheirInstructions := by
  intro i s t q notRegs notJump notMoves next
  have free : readsQuirk i = false := by
    cases i with
    | orReg x y => exact absurd rfl (notRegs x y).1
    | andReg x y => exact absurd rfl (notRegs x y).2.1
    | xorReg x y => exact absurd rfl (notRegs x y).2.2.1
    | shrReg x y => exact absurd rfl (notRegs x y).2.2.2.1
    | shlReg x y => exact absurd rfl (notRegs x y).2.2.2.2
    | jpV0 x nnn => exact absurd rfl (notJump x nnn)
    | ldIVx x => exact absurd rfl (notMoves x).1
    | ldVxI x => exact absurd rfl (notMoves x).2
    | _ => rfl
  refine ⟨t.withQuirks q, ?_, changesOnly_withQuirks t q⟩
  exact (exec_withQuirks s q free).trans (congrArg _ next)

end Sys2Proof.Machine
end

section
/-! SUPPORT. Frames of the remaining updates of the state, in the order of Machine/Ops.lean and Machine/HostOps.lean. -/

namespace Sys2Proof.Machine

theorem ChangesOnly.refl (s : State) : ChangesOnly [] s s := fun p _ => by cases p <;> rfl

/-- A part that did change is one of those that a frame allows to change. -/
theorem ChangesOnly.mem_of_changed {ps : List Part} {s t : State} {p : Part} (h : ChangesOnly ps s t)
    (changed : ¬ Unchanged s t p) : p ∈ ps := by_contra fun hp => changed (h p hp)

variable (s : State)

theorem changesOnly_setI (w : Word) : ChangesOnly [.index] s (s.setI w) := by
  intro p hp
  cases p with
  | index => exact absurd (List.mem_singleton.2 rfl) hp
  | _ => rfl

theorem changesOnly_setDT (b : Byte) : ChangesOnly [.delay] s (s.setDT b) := by
  intro p hp
  cases p with
  | delay => exact absurd (List.mem_singleton.2 rfl) hp
  | _ => rfl

theorem changesOnly_setST (b : Byte) : ChangesOnly [.sound] s (s.setST b) := by
  intro p hp
  cases p with
  | sound => exact absurd (List.mem_singleton.2 rfl) hp
  | _ => rfl

theorem changesOnly_setRun (r : RunState) : ChangesOnly [.run] s (s.setRun r) := by
  intro p hp
  cases p with
  | run => exact absurd (List.mem_singleton.2 rfl) hp
  | _ => rfl

theorem changesOnly_setKey (k : Reg) (down : Bool) : ChangesOnly [.keypad] s (setKey k down s) := by
  intro p hp
  cases p with
  | keypad => exact absurd (List.mem_singleton.2 rfl) hp
  | _ => rfl

theorem changesOnly_raise (e : StepError) : ChangesOnly [.history] s (s.raise e) := by
  intro p hp
  cases p with
  | history => exact absurd (List.mem_singleton.2 rfl) hp
  | _ => rfl

theorem changesOnly_setSp (n : Nat) : ChangesOnly [.sp] s { s with sp := n } := by
  intro p hp
  cases p with
  | sp => exact absurd (List.mem_singleton.2 rfl) hp
  | _ => rfl

theorem changesOnly_setEntry {k : Nat} (w : Word) (hk : k < 16) :
    ChangesOnly [.stackEntry k] s { s with stack := s.stack.set k w hk } := by
  intro p hp
  cases p with
  | stackEntry n =>
    have hn : k ≠ n := by rintro rfl; exact hp (List.mem_singleton.2 rfl)
    exact (stack_getD_set s.stack k n w hk).trans (if_neg hn)
  | _ => rfl

/-- What CALL changes where there is room (R99). -/
theorem changesOnly_pushed (w target : Word) (room : s.sp < 16) : ChangesOnly [.stackEntry s.sp, .sp, .pc] s
    (State.setPc { s with stack := s.stack.set s.sp w room, sp := s.sp + 1 } target) :=
  ((changesOnly_setEntry s w room).trans (changesOnly_setSp _ _)).trans (changesOnly_setPc _ _)

theorem changesOnly_writeBytes (as : List Nat) (bs : List Byte) :
    ChangesOnly (as.map .byte) s (s.writeBytes as bs) := by
  intro p hp
  cases p with
  | byte a =>
    exact s.byteAt_writeBytes_of_not_mem bs fun ha => hp (List.mem_map_of_mem ha)
  | _ => rw [State.writeBytes_eq]; rfl

/-- A register load of at most `x + 1` bytes changes V0 to Vx (R126). -/
theorem changesOnly_loadRegs (x : Reg) {bs : List Byte} (h : bs.length ≤ x.val + 1) :
    ChangesOnly (((List.finRange 16).filter (· ≤ x)).map .reg) s { s with v := loadRegs s.v 0 bs } := by
  intro p hp
  cases p with
  | reg r =>
    have above : ¬ r.val ≤ x.val := fun hr => hp (List.mem_map_of_mem (by simpa using hr))
    refine (getElem_loadRegs s.v 0 bs r r.isLt).trans (if_neg ?_)
    omega
  | _ => rfl

theorem changesOnly_vfResetQuirk :
    ChangesOnly (if s.params.quirks.vfReset then [.reg VF] else []) s s.vfResetQuirk := by
  unfold State.vfResetQuirk
  split
  · exact changesOnly_setReg s VF 0
  · exact .refl s

/-- A bitwise operation's two writes (R110). -/
theorem changesOnly_setReg_vfResetQuirk (x : Reg) (b : Byte) :
    ChangesOnly (.reg x :: if s.params.quirks.vfReset then [.reg VF] else []) s (s.setReg x b).vfResetQuirk :=
  (changesOnly_setReg s x b).trans (changesOnly_vfResetQuirk (s.setReg x b))

theorem changesOnly_bumpIndex (x : Reg) :
    ChangesOnly (if s.params.quirks.memory then [.index] else []) s (s.bumpIndex x) := by
  unfold State.bumpIndex
  split
  · exact changesOnly_setI s _
  · exact .refl s

theorem changesOnly_writeResultFlag (x : Reg) (r f : Byte) :
    ChangesOnly [.reg x, .reg VF] s (s.writeResultFlag x r f) := by
  unfold State.writeResultFlag
  cases s.params.vfOrder with
  | flagThenResult =>
    exact ((changesOnly_setReg s VF f).trans (changesOnly_setReg _ x r)).mono (by simp)
  | resultThenFlag => exact (changesOnly_setReg s x r).trans (changesOnly_setReg _ VF f)

end Sys2Proof.Machine
end

section
/-! SUPPORT. RET and CALL, one equation for each of their two ends (R97, R99). -/

namespace Sys2Proof.Machine

variable {s : State}

theorem execRet_of_empty (h : s.sp = 0) : execRet s = .next (s.raise .emptyStack) := by
  rw [execRet, s.pop_of_empty h]

theorem execRet_of_pos (h : 0 < s.sp) :
    execRet s = .next (State.setPc { s with sp := s.sp - 1 } (s.stack.toList.getD (s.sp - 1) 0)) := by
  rw [execRet, s.pop_of_pos h]

theorem execCall_of_full (nnn : Address) (h : 16 ≤ s.sp) : execCall nnn s = .next (s.raise .stackOverflow) := by
  rw [execCall, s.push_of_full h]

theorem execCall_of_lt (nnn : Address) (h : s.sp < 16) :
    execCall nnn s =
      .next (State.setPc { s with stack := s.stack.set s.sp s.pc h, sp := s.sp + 1 } (zext nnn)) := by
  rw [execCall, s.push_of_lt h]

end Sys2Proof.Machine
end

section
/-! SUPPORT. What a result ensures of its next state: one rule for each shared operation, and the frame of every
instruction from them. -/

namespace Sys2Proof.Machine

/-- Every next state that a result answers meets `P`. -/
def Ensures (P : State → Prop) (r : Result) : Prop := ∀ t, r = .next t → P t

variable {P : State → Prop} {s : State}

theorem Ensures.next {t : State} (h : P t) : Ensures P (.next t) := by
  rintro _ ⟨⟩; exact h

theorem Ensures.skipIf {c : Bool} (h : ∀ w, P (s.setPc w)) : Ensures P (s.skipIf c) := by
  rw [State.skipIf_eq]; exact .next (h _)

theorem Ensures.keySkip {x : Reg} {down : Bool} (skip : ∀ w, P (s.setPc w)) (fails : ∀ e, P (s.raise e)) :
    Ensures P (s.keySkip x down) := by
  unfold State.keySkip
  split
  · exact .next (fails _)
  · exact .skipIf skip

/-- A transfer runs on its bytes, or raises an error (R120). -/
theorem Ensures.transfer {count : Nat} {k : List Nat → State} (runs : P (k (s.transferBytes count)))
    (fails : ∀ e, P (s.raise e)) : Ensures P (s.transfer count k) := by
  by_cases h : s.transferAllowed count
  · rw [s.transfer_allowed k h]; exact .next runs
  · rw [s.transfer_denied k h]; exact .next (fails _)

theorem Ensures.execRet (pops : ∀ w, 0 < s.sp → P (State.setPc { s with sp := s.sp - 1 } w))
    (fails : ∀ e, P (s.raise e)) : Ensures P (execRet s) := by
  rcases Nat.eq_zero_or_pos s.sp with empty | pos
  · rw [execRet_of_empty empty]; exact .next (fails _)
  · rw [execRet_of_pos pos]; exact .next (pops _ pos)

theorem Ensures.execCall {nnn : Address}
    (pushes : ∀ room : s.sp < 16,
      P (State.setPc { s with stack := s.stack.set s.sp s.pc room, sp := s.sp + 1 } (zext nnn)))
    (fails : ∀ e, P (s.raise e)) : Ensures P (execCall nnn s) := by
  rcases Nat.lt_or_ge s.sp 16 with room | full
  · rw [execCall_of_lt nnn room]; exact .next (pushes room)
  · rw [execCall_of_full nnn full]; exact .next (fails _)

theorem Ensures.execLdVxK {x : Reg} (waits : P s.rewind) (takes : ∀ b, P (s.setReg x b).drawn) :
    Ensures P (execLdVxK x s) := by
  unfold Machine.execLdVxK
  split
  · exact .next waits
  · exact .next (takes _)

/-- The parts of the state that an instruction may change, whether it completes or fails (R20, R21, R25, R27, R31, R32,
R36, R52). -/
def writtenParts (s : State) : Instr → List Part
  | .cls => [.screen]
  | .ret => [.pc, .sp, .history]
  | .call _ => [.pc, .sp, .stackEntry s.sp, .history]
  | .jp _ | .jpV0 _ _ | .seByte _ _ | .sneByte _ _ | .seReg _ _ | .sneReg _ _ => [.pc]
  | .skp _ | .sknp _ => [.pc, .history]
  | .ldByte x _ | .addByte x _ | .ldReg x _ | .ldVxDT x => [.reg x]
  | .orReg x _ | .andReg x _ | .xorReg x _ => .reg x :: if s.params.quirks.vfReset then [.reg VF] else []
  | .addReg x _ | .subReg x _ | .shrReg x _ | .subnReg x _ | .shlReg x _ => [.reg x, .reg VF]
  | .rnd x _ => [.reg x, .draws]
  | .ldVxK x => [.pc, .reg x, .draws]
  | .drw _ _ _ => [.screen, .reg VF, .history]
  | .ldI _ | .addI _ | .ldF _ => [.index]
  | .ldDTVx _ => [.delay]
  | .ldSTVx _ => [.sound]
  | .ldB _ => .history :: (s.transferBytes 3).map .byte
  | .ldIVx x => .history :: ((s.transferBytes (x.val + 1)).map .byte ++
      if s.params.quirks.memory then [.index] else [])
  | .ldVxI x => .history :: (((List.finRange 16).filter (· ≤ x)).map .reg ++
      if s.params.quirks.memory then [.index] else [])

/-- The frame of every instruction: it changes only the parts it writes. -/
theorem exec_changesOnly (i : Instr) (s : State) :
    Ensures (ChangesOnly (writtenParts s i) s) (exec i s) := by
  have fails {ps : List Part} (h : Part.history ∈ ps) (e : StepError) : ChangesOnly ps s (s.raise e) :=
    (changesOnly_raise s e).mono (by simpa using h)
  cases i with
  | cls => exact .next (changesOnly_screen s _)
  | ret =>
    refine .execRet (fun w _ => ?_) (fails (by simp [writtenParts]))
    exact ((changesOnly_setSp s _).trans (changesOnly_setPc _ w)).mono (by simp [writtenParts])
  | call nnn =>
    exact .execCall (fun room => (changesOnly_pushed s _ _ room).mono (by simp [writtenParts]))
      (fails (by simp [writtenParts]))
  | jp | jpV0 => exact .next (changesOnly_setPc s _)
  | seByte | sneByte | seReg | sneReg => exact .skipIf (changesOnly_setPc s)
  | skp | sknp =>
    exact .keySkip (fun w => (changesOnly_setPc s w).mono (by simp [writtenParts]))
      (fails (by simp [writtenParts]))
  | ldByte | addByte | ldReg | ldVxDT => exact .next (changesOnly_setReg s _ _)
  | orReg | andReg | xorReg => exact .next (changesOnly_setReg_vfResetQuirk s _ _)
  | addReg | subReg | shrReg | subnReg | shlReg => exact .next (changesOnly_writeResultFlag s _ _ _)
  | rnd x nn => exact .next (changesOnly_setReg_drawn s x _)
  | ldVxK x =>
    exact .execLdVxK ((changesOnly_setPc s _).mono (by simp [writtenParts]))
      fun b => (changesOnly_setReg_drawn s x b).mono (by simp [writtenParts])
  | drw x y n =>
    refine .transfer ?_ (fails (by simp [writtenParts]))
    exact ((changesOnly_screen s _).trans (changesOnly_setReg _ VF _)).mono (by simp [writtenParts])
  | ldI | addI | ldF => exact .next (changesOnly_setI s _)
  | ldDTVx x => exact .next (changesOnly_setDT s _)
  | ldSTVx x => exact .next (changesOnly_setST s _)
  | ldB x =>
    refine .transfer ?_ (fails (by simp [writtenParts]))
    exact (changesOnly_writeBytes s _ _).mono (List.subset_cons_self _ _)
  | ldIVx x =>
    refine .transfer ?_ (fails (by simp [writtenParts]))
    have bump := changesOnly_bumpIndex (s.writeBytes (s.transferBytes (x.val + 1)) (s.dumpBytes x)) x
    rw [show (s.writeBytes _ _).params = s.params by rw [State.writeBytes_eq]] at bump
    exact ((changesOnly_writeBytes s _ _).trans bump).mono (List.subset_cons_self _ _)
  | ldVxI x =>
    refine .transfer ?_ (fails (by simp [writtenParts]))
    exact ((changesOnly_loadRegs s x (by simp)).trans (changesOnly_bumpIndex _ x)).mono
      (List.subset_cons_self _ _)

/-- A part that an instruction changed is one that it writes. -/
theorem mem_writtenParts {i : Instr} {s t : State} {p : Part} (next : exec i s = .next t)
    (changed : ¬ Unchanged s t p) : p ∈ writtenParts s i :=
  (exec_changesOnly i s t next).mem_of_changed changed

end Sys2Proof.Machine
end

section
/-! SUPPORT. Which instructions write which part of the state (R20 to R40, R52), from their frames. -/

namespace Sys2Proof.Machine

/-- Settles O12: no instruction's frame has the keypad, the parameters or the execution state. -/
theorem noInstructionWritesKeysParamsOrRun : Obligations.NoInstructionWritesKeysParamsOrRun := by
  intro i s t next
  have frame := exec_changesOnly i s t next
  have kept : ∀ p ∈ [Part.keypad, .params, .run], p ∉ writtenParts s i := by
    cases i <;> simp [writtenParts]
  exact ⟨frame .keypad (kept _ (by simp)), frame .params (kept _ (by simp)), frame .run (kept _ (by simp))⟩

section
variable {i : Instr} {s : State}

theorem screen_written (h : .screen ∈ writtenParts s i) : i = .cls ∨ ∃ x y n, i = .drw x y n := by
  cases i with
  | cls => exact .inl rfl
  | drw x y n => exact .inr ⟨x, y, n, rfl⟩
  | _ => simp [writtenParts] at h

theorem byte_written {a : Nat} (h : .byte a ∈ writtenParts s i) : ∃ x, i = .ldB x ∨ i = .ldIVx x := by
  cases i with
  | ldB x => exact ⟨x, .inl rfl⟩
  | ldIVx x => exact ⟨x, .inr rfl⟩
  | _ => simp [writtenParts] at h

theorem sp_written (h : .sp ∈ writtenParts s i) : i = .ret ∨ ∃ nnn, i = .call nnn := by
  cases i with
  | ret => exact .inl rfl
  | call nnn => exact .inr ⟨nnn, rfl⟩
  | _ => simp [writtenParts] at h

theorem stackEntry_written {k : Nat} (h : .stackEntry k ∈ writtenParts s i) : ∃ nnn, i = .call nnn := by
  cases i with
  | call nnn => exact ⟨nnn, rfl⟩
  | _ => simp [writtenParts] at h

theorem delay_written (h : .delay ∈ writtenParts s i) : ∃ x, i = .ldDTVx x := by
  cases i with
  | ldDTVx x => exact ⟨x, rfl⟩
  | _ => simp [writtenParts] at h

theorem sound_written (h : .sound ∈ writtenParts s i) : ∃ x, i = .ldSTVx x := by
  cases i with
  | ldSTVx x => exact ⟨x, rfl⟩
  | _ => simp [writtenParts] at h

theorem index_written (h : .index ∈ writtenParts s i) :
    (∃ nnn, i = .ldI nnn) ∨ (∃ x, i = .addI x ∨ i = .ldF x) ∨
      (s.params.quirks.memory = true ∧ ∃ x, i = .ldIVx x ∨ i = .ldVxI x) := by
  cases i with
  | ldI nnn => exact .inl ⟨nnn, rfl⟩
  | addI x => exact .inr (.inl ⟨x, .inl rfl⟩)
  | ldF x => exact .inr (.inl ⟨x, .inr rfl⟩)
  | ldIVx x => exact .inr (.inr ⟨by simpa [writtenParts] using h, x, .inl rfl⟩)
  | ldVxI x => exact .inr (.inr ⟨by simpa [writtenParts] using h, x, .inr rfl⟩)
  | _ => simp [writtenParts] at h

end

/-- Two stacks with the same entries are the same stack. -/
theorem stack_ext {v w : Vector Word 16} (h : ∀ k, v.toList.getD k 0 = w.toList.getD k 0) : v = w := by
  apply Vector.ext; intro k hk
  simpa [hk] using h k

/-- Settles O13: each part that changed is in the frame of the instruction. -/
theorem onlyNamedInstructionsWriteEachPart : Obligations.OnlyNamedInstructionsWriteEachPart := by
  intro i s t next
  refine ⟨fun h => screen_written (mem_writtenParts next h), fun a h => byte_written (mem_writtenParts next h),
    fun h => sp_written (mem_writtenParts next h), fun h => ?_, fun h => delay_written (mem_writtenParts next h),
    fun h => sound_written (mem_writtenParts next h), fun h => index_written (mem_writtenParts next h)⟩
  obtain ⟨k, hk⟩ : ∃ k, t.stack.toList.getD k 0 ≠ s.stack.toList.getD k 0 :=
    not_forall.1 fun same => h (stack_ext same)
  exact stackEntry_written (mem_writtenParts next (p := .stackEntry k) hk)

/-- Settles O14: where VF changed it is in the frame, as a flag or as a register that the instruction names. -/
theorem vfIsWrittenOnlyAsFlagOrDestination : Obligations.VfIsWrittenOnlyAsFlagOrDestination := by
  intro i s t next changed
  have written : .reg VF ∈ writtenParts s i := mem_writtenParts next changed
  cases i with
  | orReg x y | andReg x y | xorReg x y =>
    refine .inl ⟨x, y, by simp, ?_⟩
    rcases List.mem_cons.1 written with dest | flag
    · exact .inr (by simpa [eq_comm] using dest)
    · exact .inl (by simpa using flag)
  | addReg x y | subReg x y | subnReg x y | shrReg x y | shlReg x y =>
    exact .inr (.inl ⟨x, y, by simp⟩)
  | drw x y n => exact .inr (.inr (.inl ⟨x, y, n, rfl⟩))
  | ldByte x nn | addByte x nn | rnd x nn =>
    obtain rfl : VF = x := by simpa [writtenParts] using written
    exact .inr (.inr (.inr (.inl ⟨nn, by simp⟩)))
  | ldReg x y =>
    obtain rfl : VF = x := by simpa [writtenParts] using written
    exact .inr (.inr (.inr (.inr (.inl ⟨y, rfl⟩))))
  | ldVxDT x | ldVxK x =>
    obtain rfl : VF = x := by simpa [writtenParts] using written
    simp
  | ldVxI x =>
    have last : VF ≤ x := by simpa [writtenParts] using written
    obtain rfl : x = VF := le_antisymm (Fin.le_last x) last
    simp
  | _ => simp [writtenParts] at written

end Sys2Proof.Machine
end

section
/-! SUPPORT. Everything one step can do (R76 to R80). -/

namespace Sys2Proof.Machine

/-- The four ends of a step (R76): nothing done, a failed fetch, an unknown word, an instruction run. -/
inductive StepsTo (s : State) : State → Prop where
  | idle (stopped : s.run ≠ .running) : StepsTo s s
  | fetchFailed {e : StepError} (running : s.run = .running) (failed : s.fetch = .error e) :
    StepsTo s (s.raise e)
  | unknown {op word : Word} (running : s.run = .running) (fetched : s.fetch = .ok op)
    (none : decode op = .error (.unknown word)) : StepsTo s (s.advance.raise (.unknownInstruction word))
  | ran {op : Word} {i : Instr} {t : State} (running : s.run = .running) (fetched : s.fetch = .ok op)
    (decoded : decode op = .ok i) (next : exec i s.advance = .next t) : StepsTo s t

theorem step_eq_next_iff {s t : State} : step s = .next t ↔ StepsTo s t := by
  constructor
  · intro h
    unfold step at h
    split at h
    · cases h; exact .idle (by simp [*])
    · cases h; exact .idle (by simp [*])
    · split at h
      · cases h; exact .fetchFailed ‹_› ‹_›
      · split at h
        · cases h; exact .unknown ‹_› ‹_› ‹_›
        · exact .ran ‹_› ‹_› ‹_› h
  · rintro (stopped | ⟨running, failed⟩ | ⟨running, fetched, none⟩ | ⟨running, fetched, decoded, next⟩) <;>
      unfold step
    · split <;> simp_all
    · rw [running, failed]
    · rw [running, fetched]; simp only [none]
    · rw [running, fetched]; simp only [decoded, next]

end Sys2Proof.Machine
end

section
/-! SUPPORT. The invariant: memory in canonical form, sp in 0 to 16, legal parameters (R25, R147, R172). -/

namespace Sys2Proof.Machine

/-- A store of several bytes inside memory keeps the invariant. -/
theorem State.inv_writeBytes {s : State} (inv : s.Inv) {as : List Nat} (bs : List Byte)
    (inside : ∀ a ∈ as, a < memorySize) : (s.writeBytes as bs).Inv := by
  obtain ⟨wf, sp, legal⟩ := inv
  rw [State.writeBytes_eq]
  exact ⟨s.writeBytes_wf bs wf inside, sp, legal⟩

theorem State.inv_bumpIndex {s : State} (inv : s.Inv) (x : Reg) : (s.bumpIndex x).Inv := by
  rw [State.bumpIndex_eq]; exact inv

/-- Every instruction keeps the invariant, whether it completes or fails. -/
theorem exec_keeps_inv {s : State} (inv : s.Inv) (i : Instr) : Ensures State.Inv (exec i s) := by
  have ⟨wf, sp, legal⟩ := inv
  cases i with
  | cls | jp | jpV0 | ldByte | addByte | ldReg | ldVxDT | rnd | ldI | addI | ldF | ldDTVx | ldSTVx =>
    exact .next inv
  | orReg | andReg | xorReg => exact .next (by rw [State.vfResetQuirk_eq]; exact inv)
  | addReg | subReg | shrReg | subnReg | shlReg => exact .next (by rw [State.writeResultFlag_eq]; exact inv)
  | seByte | sneByte | seReg | sneReg => exact .skipIf fun _ => inv
  | skp | sknp => exact .keySkip (fun _ => inv) fun _ => inv
  | ldVxK => exact .execLdVxK inv fun _ => inv
  | ret => exact .execRet (fun _ _ => ⟨wf, (Nat.sub_le _ _).trans sp, legal⟩) fun _ => inv
  | call => exact .execCall (fun room => ⟨wf, room, legal⟩) fun _ => inv
  | drw => exact .transfer inv fun _ => inv
  | ldB x => exact .transfer (State.inv_writeBytes inv _ fun _ => s.transferBytes_lt) fun _ => inv
  | ldIVx x =>
    exact .transfer (State.inv_bumpIndex (State.inv_writeBytes inv _ fun _ => s.transferBytes_lt) x) fun _ => inv
  | ldVxI x =>
    have loaded (v : Vector Byte 16) : State.Inv { s with v := v } := inv
    exact .transfer (State.inv_bumpIndex (loaded _) x) fun _ => inv

/-- Settles O19: a step that runs no instruction leaves memory, sp and the parameters alone. -/
theorem everyStepKeepsTheInvariant : Obligations.EveryStepKeepsTheInvariant := by
  intro s t inv next
  cases step_eq_next_iff.1 next with
  | idle | fetchFailed | unknown => exact inv
  | ran _ _ _ next => exact exec_keeps_inv (s := s.advance) inv _ t next

/-- The state with legal parameters, nothing stored and an empty stack. -/
theorem State.inv_initial {p : Params} (legal : paramsLegal p = true) (run : RunState) :
    (State.initial p run).Inv :=
  ⟨Memory.wf_initial p run, Nat.zero_le _, legal⟩

/-- Settles O18: the parameters of log entry 1 are legal. -/
theorem resetStateMeetsTheInvariant : Obligations.ResetStateMeetsTheInvariant :=
  State.inv_initial (by decide) _

/-- What `construct` answers where it accepts its inputs (R164, R166, R172). -/
theorem construct_next {p : Params} {s : State} (h : construct p = .next s) :
    paramsLegal p = true ∧ s = State.initial p (initialRunState p.initialRun) := by
  unfold construct at h
  split at h
  · split at h
    · cases h; exact ⟨by simp [paramsLegal, *], rfl⟩
    · cases h
  · cases h

theorem toggleExecution_eq (s : State) : toggleExecution s = s.setRun (toggleExecution s).run := by
  unfold toggleExecution
  cases s.run <;> rfl

theorem onTimer_keeps_inv {s : State} (inv : s.Inv) : (onTimer s).Inv := by
  unfold onTimer; split <;> exact inv

theorem keyEvent_next {code : Nat} {down : Bool} {s t : State} {r : HostResult}
    (h : keyEvent code down s = .next (t, r)) : ∃ k, t = setKey k down s := by
  unfold keyEvent at h
  split at h
  · cases h; exact ⟨_, rfl⟩
  · cases h

/-- Every host operation keeps the invariant. -/
theorem hostCall_keeps_inv {op : HostOp} {s t : State} {r : HostResult} (inv : s.Inv)
    (h : hostCall op s = .next (t, r)) : t.Inv := by
  cases op with
  | reset => cases h; exact State.inv_initial inv.2.2 .running
  | getState | getFramebuffer | isAudioPlaying | terminate => cases h; exact inv
  | toggleExecution => cases h; rw [toggleExecution_eq]; exact inv
  | onTimer => cases h; exact onTimer_keeps_inv inv
  | keyDown code | keyUp code => obtain ⟨k, rfl⟩ := keyEvent_next h; exact inv
  | step =>
    simp only [hostCall] at h
    split at h
    · cases h; exact everyStepKeepsTheInvariant s _ inv ‹_›
    · cases h
    · cases h

/-- A property that every host operation keeps holds after every sequence of them. -/
theorem hostRun_induction {P : State → Prop}
    (keeps : ∀ {op s t r}, P s → hostCall op s = .next (t, r) → P t) {ops : List HostOp} {s t : State}
    (start : P s) (h : hostRun ops s = .next t) : P t := by
  induction ops generalizing s with
  | nil => cases h; exact start
  | cons op ops ih =>
    unfold hostRun at h
    split at h
    · exact ih (keeps start ‹_›) h
    · cases h
    · cases h

/-- Settles O20: the constructed state meets the invariant, and every host operation keeps it. -/
theorem everyReachableStateMeetsTheInvariant : Obligations.EveryReachableStateMeetsTheInvariant := by
  intro p s t ops built ran
  obtain ⟨legal, rfl⟩ := construct_next built
  exact hostRun_induction hostCall_keeps_inv (State.inv_initial legal _) ran

end Sys2Proof.Machine
end

section
/-! SUPPORT. Parts of the state that an instruction does not read: changing the return stack or the sound timer commutes
with every instruction that is not theirs (R30, R32). -/

namespace Sys2Proof.Machine

/-- The machine with its return stack changed by `g` and its sound timer by `f`, and nothing else. -/
def State.mapUnread (s : State) (g : Vector Word 16 → Vector Word 16) (f : Byte → Byte) : State :=
  { s with stack := g s.stack, st := f s.st }

/-- The instructions that read or write the return stack or the sound timer (R27, R32). -/
def usesStackOrSound : Instr → Bool
  | .ret | .call _ | .ldSTVx _ => true
  | _ => false

section
variable (s : State) (g : Vector Word 16 → Vector Word 16) (f : Byte → Byte)

theorem State.writeBytes_mapUnread (as : List Nat) (bs : List Byte) :
    (s.mapUnread g f).writeBytes as bs = (s.writeBytes as bs).mapUnread g f := by
  induction as generalizing s bs with
  | nil => rw [State.writeBytes_nil, State.writeBytes_nil]
  | cons a as ih =>
    cases bs with
    | nil => rfl
    | cons b bs => exact ih (s.writeByte a b) bs

theorem State.writeResultFlag_mapUnread (x : Reg) (r b : Byte) :
    (s.mapUnread g f).writeResultFlag x r b = (s.writeResultFlag x r b).mapUnread g f := by
  have same : (s.mapUnread g f).params.vfOrder = s.params.vfOrder := rfl
  unfold State.writeResultFlag
  rw [same]
  cases s.params.vfOrder <;> rfl

theorem State.vfResetQuirk_mapUnread :
    (s.mapUnread g f).vfResetQuirk = s.vfResetQuirk.mapUnread g f := by
  have same : (s.mapUnread g f).params = s.params := rfl
  unfold State.vfResetQuirk
  rw [same]
  split <;> rfl

theorem State.bumpIndex_mapUnread (x : Reg) :
    (s.mapUnread g f).bumpIndex x = (s.bumpIndex x).mapUnread g f := by
  rw [State.bumpIndex_eq, State.bumpIndex_eq]; rfl

theorem State.skipIf_mapUnread (c : Bool) :
    (s.mapUnread g f).skipIf c = mapNext (·.mapUnread g f) (s.skipIf c) := by
  cases c <;> rfl

theorem State.keySkip_mapUnread (x : Reg) (down : Bool) :
    (s.mapUnread g f).keySkip x down = mapNext (·.mapUnread g f) (s.keySkip x down) := by
  have same : keyIndex (s.mapUnread g f).params.keyIndex ((s.mapUnread g f).reg x) =
    keyIndex s.params.keyIndex (s.reg x) := rfl
  unfold State.keySkip
  rw [same]
  cases keyIndex s.params.keyIndex (s.reg x) with
  | error e => rfl
  | ok k => exact s.skipIf_mapUnread g f _

/-- A transfer checks its addresses alike, so it commutes where what runs on the addresses does. -/
theorem State.transfer_mapUnread (count : Nat) {k k' : List Nat → State}
    (hk : ∀ addrs, k' addrs = (k addrs).mapUnread g f) :
    (s.mapUnread g f).transfer count k' = mapNext (·.mapUnread g f) (s.transfer count k) := by
  by_cases h : s.transferAllowed count
  · rw [s.transfer_allowed k h, (s.mapUnread g f).transfer_allowed k' h]
    exact congrArg _ (hk _)
  · rw [s.transfer_denied k h, (s.mapUnread g f).transfer_denied k' h]; rfl

theorem execLdVxK_mapUnread (x : Reg) :
    execLdVxK x (s.mapUnread g f) = mapNext (·.mapUnread g f) (execLdVxK x s) := by
  have same : (s.mapUnread g f).pressed = s.pressed := rfl
  unfold execLdVxK
  rw [same]
  cases s.pressed <;> rfl

/-- An instruction that uses neither does the same whatever they hold. -/
theorem exec_mapUnread {i : Instr} (h : usesStackOrSound i = false) :
    exec i (s.mapUnread g f) = mapNext (·.mapUnread g f) (exec i s) := by
  cases i with
  | ret | call | ldSTVx => cases h
  | cls | jp | jpV0 | ldByte | addByte | ldReg | ldI | rnd | ldVxDT | ldDTVx | addI | ldF => rfl
  | seByte | sneByte | seReg | sneReg => exact s.skipIf_mapUnread g f _
  | skp | sknp => exact s.keySkip_mapUnread g f _ _
  | orReg x y | andReg x y | xorReg x y => exact congrArg _ (State.vfResetQuirk_mapUnread (s.setReg x _) g f)
  | addReg | subReg | subnReg | shrReg | shlReg => exact congrArg _ (s.writeResultFlag_mapUnread g f _ _ _)
  | ldVxK x => exact execLdVxK_mapUnread s g f x
  | drw x y n => exact s.transfer_mapUnread g f _ fun _ => rfl
  | ldB x => exact s.transfer_mapUnread g f _ fun addrs => s.writeBytes_mapUnread g f addrs _
  | ldIVx x =>
    refine s.transfer_mapUnread g f _ fun addrs => ?_
    rw [State.writeBytes_mapUnread]
    exact State.bumpIndex_mapUnread _ g f x
  | ldVxI x =>
    exact s.transfer_mapUnread g f _ fun addrs => State.bumpIndex_mapUnread { s with v := _ } g f x

/-- RET commutes with a change of the stack that leaves the entry it pops. -/
theorem execRet_mapUnread
    (top : 0 < s.sp → (g s.stack).toList.getD (s.sp - 1) 0 = s.stack.toList.getD (s.sp - 1) 0) :
    execRet (s.mapUnread g f) = mapNext (·.mapUnread g f) (execRet s) := by
  rcases Nat.eq_zero_or_pos s.sp with empty | pos
  · rw [execRet_of_empty empty, execRet_of_empty (s := s.mapUnread g f) empty]; rfl
  · rw [execRet_of_pos pos, execRet_of_pos (s := s.mapUnread g f) pos, ← top pos]; rfl

/-- CALL commutes with a change of the stack that commutes with its push. -/
theorem execCall_mapUnread (nnn : Address)
    (pushed : ∀ room : s.sp < 16, (g s.stack).set s.sp s.pc room = g (s.stack.set s.sp s.pc room)) :
    execCall nnn (s.mapUnread g f) = mapNext (·.mapUnread g f) (execCall nnn s) := by
  rcases Nat.lt_or_ge s.sp 16 with room | full
  · rw [execCall_of_lt nnn room, execCall_of_lt (s := s.mapUnread g f) nnn room]
    exact congrArg (fun v => Host.Outcome.next (State.setPc
      { s with stack := v, st := f s.st, sp := s.sp + 1 } (zext nnn))) (pushed room)
  · rw [execCall_of_full nnn full, execCall_of_full (s := s.mapUnread g f) nnn full]; rfl

/-- A step relates the two machines as the instruction it runs does, where `R` relates a machine to its change. -/
theorem step_mapUnread {R : State → State → Prop} (related : ∀ t, R t (t.mapUnread g f))
    (runs : ∀ i t, exec i s.advance = .next t →
      ∃ u, exec i (s.advance.mapUnread g f) = .next u ∧ R t u)
    {t : State} (next : step s = .next t) : ∃ u, step (s.mapUnread g f) = .next u ∧ R t u := by
  cases step_eq_next_iff.1 next with
  | idle stopped => exact ⟨_, step_eq_next_iff.2 (.idle stopped), related _⟩
  | fetchFailed running failed =>
    exact ⟨_, step_eq_next_iff.2 (.fetchFailed running failed), related (s.raise _)⟩
  | unknown running fetched none =>
    exact ⟨_, step_eq_next_iff.2 (.unknown running fetched none), related (s.advance.raise _)⟩
  | ran running fetched decoded next =>
    obtain ⟨u, hu, htu⟩ := runs _ t next
    exact ⟨u, step_eq_next_iff.2 (.ran running fetched decoded hu), htu⟩

end

theorem mapNext_eq_next {F : State → State} {r r' : Result} {t : State} (h : r' = mapNext F r)
    (next : r = .next t) : r' = .next (F t) := by rw [h, next]; rfl

/-! ### The sound timer (R32) -/

/-- With another value in ST an instruction ends as it did, ST apart. -/
theorem exec_setST {i : Instr} {s t : State} (b : Byte) (next : exec i s = .next t) :
    ∃ u, exec i (s.setST b) = .next u ∧ ChangesOnly [.sound] t u := by
  have commutes (h : exec i (s.mapUnread id fun _ => b) = mapNext (·.mapUnread id fun _ => b) (exec i s)) :
      ∃ u, exec i (s.setST b) = .next u ∧ ChangesOnly [.sound] t u :=
    ⟨_, mapNext_eq_next h next, changesOnly_setST t b⟩
  cases i with
  | ldSTVx x => exact ⟨t, next, (ChangesOnly.refl t).mono (List.nil_subset _)⟩
  | ret => exact commutes (execRet_mapUnread s id _ fun _ => rfl)
  | call nnn => exact commutes (execCall_mapUnread s id _ nnn fun _ => rfl)
  | _ => exact commutes (exec_mapUnread s id _ rfl)

/-- Settles O15: the fetch does not read ST, and each instruction leaves it or overwrites it. -/
theorem soundTimerIsNeverRead : Obligations.SoundTimerIsNeverRead := fun s _ b next =>
  step_mapUnread s id (fun _ => b) (changesOnly_setST · b) (fun _ _ => exec_setST b) next

/-! ### The unused stack entries (R30) -/

/-- CALL overwrites the entry at sp, whatever it holds. -/
theorem execCall_setEntry_sp {s : State} (w : Word) (nnn : Address) (room : s.sp < 16) :
    execCall nnn { s with stack := s.stack.set s.sp w room } = execCall nnn s := by
  refine (execCall_of_lt (s := { s with stack := s.stack.set s.sp w room }) nnn room).trans ?_
  rw [execCall_of_lt nnn room]
  simp only [Vector.set_set]

/-- With another value in a stack entry at or above sp an instruction ends as it did, that entry apart: RET pops below
it, and CALL overwrites it or writes another. -/
theorem exec_setEntry {i : Instr} {s t : State} {k : Nat} (w : Word) (hk : k < 16) (unused : s.sp ≤ k)
    (next : exec i s = .next t) :
    ∃ u, exec i { s with stack := s.stack.set k w hk } = .next u ∧ ChangesOnly [.stackEntry k] t u := by
  have commutes (h : exec i (s.mapUnread (·.set k w hk) id) =
        mapNext (·.mapUnread (·.set k w hk) id) (exec i s)) :
      ∃ u, exec i { s with stack := s.stack.set k w hk } = .next u ∧ ChangesOnly [.stackEntry k] t u :=
    ⟨_, mapNext_eq_next h next, changesOnly_setEntry t w hk⟩
  cases i with
  | ret =>
    refine commutes (execRet_mapUnread s _ _ fun pos => ?_)
    rw [stack_getD_set, if_neg (by omega)]
  | call nnn =>
    rcases Nat.eq_or_lt_of_le unused with rfl | below
    · exact ⟨t, (execCall_setEntry_sp w nnn hk).trans next, (ChangesOnly.refl t).mono (List.nil_subset _)⟩
    · exact commutes (execCall_mapUnread s _ _ nnn fun room => Vector.set_comm _ _ (by omega))
  | ldSTVx x => exact commutes rfl
  | _ => exact commutes (exec_mapUnread s _ _ rfl)

/-- Settles O16: the fetch does not read the stack, and no instruction reads an entry at or above sp. -/
theorem unusedStackEntriesAreNeverRead : Obligations.UnusedStackEntriesAreNeverRead := fun s _ k w hk unused next =>
  step_mapUnread s (·.set k w hk) id (changesOnly_setEntry · w hk)
    (fun _ _ => exec_setEntry (s := s.advance) w hk unused) next

end Sys2Proof.Machine
end

section
/-! SUPPORT. The return stack as CALL and sequences of pushes and pops use it (R28 to R30, R99). -/

namespace Sys2Proof.Machine

/-- Settles O23: CALL pushes pc while there is room, and raises StackOverflow otherwise. -/
theorem callPushesTheAdvancedPc : Obligations.CallPushesTheAdvancedPc := by
  intro s nnn
  constructor
  · intro room
    refine ⟨_, execCall_of_lt nnn room, toNat_zext nnn, rfl, ?_, (changesOnly_pushed s _ _ room).mono (by simp)⟩
    exact (stack_getD_set s.stack s.sp s.sp s.pc room).trans (if_pos rfl)
  · intro full
    exact ⟨_, execCall_of_full nnn full.ge, rfl, changesOnly_raise s _⟩

/-- One more pop after `n` of them. -/
theorem popAll_succ {n : Nat} {t u u' : State} {ws : List Word} {w : Word}
    (h : popAll n t = .ok (ws, u)) (last : u.pop = .ok (w, u')) : popAll (n + 1) t = .ok (ws ++ [w], u') := by
  induction n generalizing t ws with
  | zero => cases h; simp [popAll, last]
  | succ n ih =>
    rw [popAll] at h
    split at h
    · cases h
    · rename_i v t' first
      split at h
      · cases h
      · rename_i vs u'' rest
        cases h
        rw [popAll, first]
        simp only [ih rest, List.cons_append]

/-- Values pushed while they fit are popped in reverse, and the entries below them stay (R28). -/
theorem popAll_pushAll (ws : List Word) (s : State) (fits : s.sp + ws.length ≤ 16) :
    ∃ t u, pushAll ws s = .ok t ∧ t.sp = s.sp + ws.length ∧ popAll ws.length t = .ok (ws.reverse, u) ∧
      u.sp = s.sp ∧ ∀ k < s.sp, u.stack.toList.getD k 0 = s.stack.toList.getD k 0 := by
  induction ws generalizing s with
  | nil => exact ⟨s, s, rfl, rfl, rfl, rfl, fun _ _ => rfl⟩
  | cons w ws ih =>
    rw [List.length_cons] at fits
    have room : s.sp < 16 := by omega
    obtain ⟨t, u, pushed, tsp, popped, usp, below⟩ :=
      ih { s with stack := s.stack.set s.sp w room, sp := s.sp + 1 } (by simp only; omega)
    simp only [stack_getD_set] at below tsp usp
    have last := u.pop_of_pos (by omega)
    rw [usp, Nat.add_sub_cancel, below s.sp (by omega), if_pos rfl] at last
    refine ⟨t, { u with sp := s.sp }, ?_, by rw [tsp, List.length_cons]; omega, ?_, rfl, fun k hk => ?_⟩
    · rw [pushAll, s.push_of_lt room]; exact pushed
    · rw [List.length_cons, List.reverse_cons]; exact popAll_succ popped last
    · exact (below k (by omega)).trans (if_neg (by omega))

/-- Settles O24, by induction on the values pushed. -/
theorem stackIsLastInFirstOut : Obligations.StackIsLastInFirstOut := by
  intro s
  refine ⟨fun ws fits => ?_, fun full _ => s.push_of_full full.ge, s.pop_of_empty⟩
  obtain ⟨t, u, pushed, tsp, popped, usp, -⟩ := popAll_pushAll ws s fits
  exact ⟨t, u, pushed, tsp, popped, usp⟩

end Sys2Proof.Machine
end

section
/-! SUPPORT. The host's reads, key events and lifecycle operations (R43 to R46, R159). -/

namespace Sys2Proof.Machine

/-- Settles O49: each execution state is one case of the toggle. -/
theorem lifecycleOperationsChangeRun : Obligations.LifecycleOperationsChangeRun := by
  intro s
  refine ⟨⟨_, rfl, rfl, changesOnly_setRun s _⟩, _, rfl, ?_, ?_⟩
  · rw [toggleExecution_eq]; exact changesOnly_setRun s _
  · unfold toggleExecution
    cases h : s.run <;> simp [h]

/-- The cells of a framebuffer in row-major order (R46). -/
theorem framebufferBytes_eq (fb : Framebuffer) :
    framebufferBytes fb = (fb.flatMap fun row => row.map fun lit => if lit then (1 : Byte) else 0).toList := by
  obtain ⟨⟨rows⟩, size⟩ := fb
  simp [framebufferBytes, Vector.toList]

theorem length_framebufferBytes (fb : Framebuffer) : (framebufferBytes fb).length = 2048 := by
  rw [framebufferBytes_eq, Vector.length_toList]

/-- Cell `row * 64 + col` is the pixel at `row`, `col`. -/
theorem getD_framebufferBytes (fb : Framebuffer) {row col : Nat} (hr : row < 32) (hc : col < 64) :
    (framebufferBytes fb).getD (row * 64 + col) 0 = if pixelAt fb row col then 1 else 0 := by
  have hk : row * 64 + col < 32 * 64 := by omega
  have hrow : (row * 64 + col) / 64 = row := by omega
  have hcol : (row * 64 + col) % 64 = col := by omega
  rw [List.getD_eq_getElem _ _ (by rw [length_framebufferBytes]; exact hk), pixelAt_of_lt fb hr hc]
  simp only [framebufferBytes_eq, Vector.getElem_toList, Vector.getElem_flatMap, Vector.getElem_map, hrow, hcol]

/-- Settles O51: the execution state and ST are read off, the framebuffer cell by cell. -/
theorem hostReadsReportTheState : Obligations.HostReadsReportTheState := by
  intro s
  refine ⟨rfl, ⟨_, rfl, ?_⟩,
    _, rfl, length_framebufferBytes s.fb, fun _ _ => getD_framebufferBytes s.fb⟩
  rw [isAudioPlaying, bne_iff_ne, ne_eq, BitVec.toNat_eq]
  exact Nat.pos_iff_ne_zero.symm

/-- The keypad after a key event. -/
theorem keyIsDown_setKey (s : State) (k : Reg) (down : Bool) (n : Nat) :
    (setKey k down s).keyIsDown n = if k.val = n then down else s.keyIsDown n := by
  simp only [State.keyIsDown, setKey, Vector.toList_set, List.getD_eq_getElem?_getD, List.getElem?_set]
  split
  · simp
  · rfl

/-- Settles O52: both events are one `keyEvent`, which sets an existing key and refuses any other code. -/
theorem keyEventsSetOneKey : Obligations.KeyEventsSetOneKey := by
  intro s code
  constructor
  · intro inRange op down event
    have hc : code < 16 := by omega
    have call : hostCall op s = .next (setKey ⟨code, hc⟩ down s, .none) := by
      rcases event with ⟨rfl, rfl⟩ | ⟨rfl, rfl⟩ <;> exact dif_pos hc
    refine ⟨_, call, ?_, fun k hk => ?_, changesOnly_setKey s _ down⟩
    · rw [keyIsDown_setKey, if_pos rfl]
    · rw [keyIsDown_setKey, if_neg (Ne.symm hk)]
  · intro high
    exact ⟨dif_neg (by omega), dif_neg (by omega)⟩

end Sys2Proof.Machine
end

section
/-! SUPPORT. The constructed Machine (R48, R58, R67, R164 to R173). -/

namespace Sys2Proof.Machine

/-- The font lies below the program base, so no address is of both ROM and font (R172). -/
theorem font_below_rom {p : Params} (legal : paramsLegal p = true) : p.fontBase.toNat + 80 ≤ 0x200 := by
  simp only [paramsLegal, fontBaseLegal, Bool.and_eq_true, decide_eq_true_eq] at legal
  exact legal.1

theorem initialByte_rom (p : Params) {k : Nat} (h : k < p.rom.length) :
    initialByte p (0x200 + k) = p.rom.getD k 0 := by
  rw [initialByte, if_pos (by simp only [programBase]; omega), programBase, Nat.add_sub_cancel_left]

theorem initialByte_font {p : Params} (legal : paramsLegal p = true) {k : Nat} (h : k < 80) :
    initialByte p (p.fontBase.toNat + k) = p.fontData.toList.getD k 0 := by
  have below := font_below_rom legal
  rw [initialByte, if_neg (by simp only [programBase]; omega), if_pos (by simp only [fontSize]; omega),
    Nat.add_sub_cancel_left]

theorem initialByte_free {p : Params} {a : Nat} (rom : ¬ (0x200 ≤ a ∧ a < 0x200 + p.rom.length))
    (font : ¬ (p.fontBase.toNat ≤ a ∧ a < p.fontBase.toNat + 80)) : initialByte p a = 0 := by
  rw [initialByte]
  exact (if_neg rom).trans (if_neg font)

/-- Settles O54: a constructed Machine lists no byte, so each reads as its construction value. -/
theorem constructedMemoryHoldsRomAndFont : Obligations.ConstructedMemoryHoldsRomAndFont := by
  intro p s built
  obtain ⟨legal, rfl⟩ := construct_next built
  exact ⟨fun _ => initialByte_rom p, fun _ => initialByte_font legal, fun _ => initialByte_free⟩

/-- A vector of one value reads that value everywhere, where it is also the default. -/
theorem getD_replicate_self {α : Type} (n k : Nat) (a : α) : (Vector.replicate n a).toList.getD k a = a := by
  rw [Vector.toList_replicate, List.getD_eq_getElem?_getD, List.getElem?_getD_replicate_default_eq]

/-- Settles O55: `construct` answers `State.initial`, whose parts are these by definition. -/
theorem constructedStateIsZeroed : Obligations.ConstructedStateIsZeroed := by
  intro p s built
  obtain ⟨-, rfl⟩ := construct_next built
  refine ⟨fun r => by simp [State.reg, State.initial], rfl, rfl, rfl, fun k => getD_replicate_self 16 k 0, rfl, rfl,
    pixelAt_blankScreen, fun k => getD_replicate_self 16 k false, ?_⟩
  show (initialRunState p.initialRun = .running ↔ _) ∧ (initialRunState p.initialRun = .paused ↔ _)
  cases p.initialRun <;> simp [initialRunState]

end Sys2Proof.Machine
end

section
/-! SUPPORT. The canonical memory (R50; log entry 5): its cells are exactly the reads that differ from an unlisted
address, so the reads fix the list. -/

namespace Sys2Proof.Machine

variable {p : Params} {m n : List Host.Cell}

/-- Where addresses rise, each listed byte is the one its address reads as. -/
theorem Memory.read_of_mem {c : Host.Cell} (rising : m.Pairwise (fun c d => c.1 < d.1)) (hc : c ∈ m) :
    Memory.read p m c.1 = c.2 := by
  induction m with
  | nil => cases hc
  | cons d rest ih =>
    have ⟨above, rising⟩ := List.pairwise_cons.1 rising
    rw [Memory.read]
    rcases List.mem_cons.1 hc with rfl | later
    · exact if_pos rfl
    · rw [if_neg (above c later).ne, ih rising later]

/-- An address that reads otherwise than unlisted is listed with the byte it reads as. -/
theorem Memory.mem_of_read_ne {a : Nat} (h : Memory.read p m a ≠ initialByte p a) : (a, Memory.read p m a) ∈ m := by
  induction m with
  | nil => exact absurd rfl h
  | cons d rest ih =>
    rw [Memory.read] at h ⊢
    by_cases here : d.1 = a
    · rw [if_pos here, ← here]; exact List.mem_cons_self
    · rw [if_neg here] at h ⊢; exact List.mem_cons_of_mem _ (ih h)

/-- The cells of a canonical memory, by its reads. -/
theorem Memory.mem_iff_read (wf : Memory.wf p m) (c : Host.Cell) :
    c ∈ m ↔ Memory.read p m c.1 = c.2 ∧ c.2 ≠ initialByte p c.1 := by
  obtain ⟨rising, listed⟩ := wf
  constructor
  · exact fun hc => ⟨Memory.read_of_mem rising hc, (listed c hc).2⟩
  · rintro ⟨read, differs⟩
    have mem := Memory.mem_of_read_ne (read.trans_ne differs)
    rwa [read] at mem

/-- Settles O21: memories that read alike have the same cells, and rising addresses fix their order. -/
theorem canonicalMemoryIsUnique : Obligations.CanonicalMemoryIsUnique := by
  intro p m n wfm wfn alike
  have cells (c : Host.Cell) : c ∈ m ↔ c ∈ n := by
    rw [Memory.mem_iff_read wfm, Memory.mem_iff_read wfn, alike]
  have irrefl : Std.Irrefl fun c d : Host.Cell => c.1 < d.1 := ⟨fun c => Nat.lt_irrefl c.1⟩
  have antisymm : Std.Antisymm fun c d : Host.Cell => c.1 < d.1 := ⟨fun _ _ h h' => absurd h' h.asymm⟩
  exact wfm.1.eq_of_mem_iff wfn.1 cells

end Sys2Proof.Machine
end

section
/-! SUPPORT. What a Running machine's step is, by what it fetches (R76 to R80). -/

namespace Sys2Proof.Machine

/-- Settles O5: each word is one row of R79, or of none. -/
theorem spelledWordsDecode : Obligations.SpelledWordsDecode := by
  unfold Obligations.SpelledWordsDecode; decide

/-- A step that fetches an instruction runs it past the pc advance, whatever it answers (R78, R79). -/
theorem step_of_decoded {s : State} {op : Word} {i : Instr} (running : s.run = .running)
    (fetched : s.fetch = .ok op) (decoded : decode op = .ok i) : step s = exec i s.advance := by
  unfold step; rw [running, fetched]; simp only [decoded]

/-- Settles O6: an allowed fetch reads the two bytes at pc, and what they decode to is one end of the step. -/
theorem stepRunsTheDecodedInstruction : Obligations.StepRunsTheDecodedInstruction := by
  intro s
  refine ⟨fun stopped => step_eq_next_iff.2 (.idle stopped), fun running allowed => ?_⟩
  have fetched := s.fetch_of_allowed allowed
  exact ⟨fun i decoded => step_of_decoded running fetched decoded,
    fun op none => step_eq_next_iff.2 (.unknown running fetched none)⟩

/-- Settles O7: the fetch fails at the larger of pc and 0x1000, and the failed step raises that and no more. -/
theorem fetchOutsideMemoryRaisesBoundsFault : Obligations.FetchOutsideMemoryRaisesBoundsFault := by
  intro s running policy outside
  have first : max s.pc.toNat memorySize = if s.pc.toNat = 0xFFF then 0x1000 else s.pc.toNat := by
    simp only [memorySize]; split <;> omega
  refine ⟨_, step_eq_next_iff.2 (.fetchFailed running (s.fetch_denied policy outside)), ?_, changesOnly_raise s _⟩
  rw [← first]; rfl

end Sys2Proof.Machine
end

section
/-! SUPPORT. LD B, LD [I], Vx and LD Vx, [I] where their transfer is allowed, and every transfer where it is denied
(R53, R57, R120, R124 to R126). -/

namespace Sys2Proof.Machine

variable (s : State)

/-! ### The index after a transfer (R125, R126) -/

@[simp] theorem State.reg_bumpIndex (x q : Reg) : (s.bumpIndex x).reg q = s.reg q := by
  rw [State.bumpIndex_eq]; rfl

@[simp] theorem State.byteAt_bumpIndex (x : Reg) (k : Nat) : (s.bumpIndex x).byteAt k = s.byteAt k := by
  rw [State.bumpIndex_eq]; rfl

theorem State.toNat_i_bumpIndex (x : Reg) : (s.bumpIndex x).i.toNat = s.indexAfter (x.val + 1) := by
  rw [State.bumpIndex_eq, State.indexAfter]
  dsimp only
  split
  · bv_omega
  · rfl

/-- The frame of the bump, whatever the quirk. -/
theorem changesOnly_index_bumpIndex (x : Reg) : ChangesOnly [.index] s (s.bumpIndex x) :=
  (changesOnly_bumpIndex s x).mono (by split <;> simp)

/-- A store of several bytes does not bear on where I goes next. -/
@[simp] theorem State.indexAfter_writeBytes (as : List Nat) (bs : List Byte) (count : Nat) :
    (s.writeBytes as bs).indexAfter count = s.indexAfter count := by
  rw [State.writeBytes_eq]; rfl

/-! ### Bytes stored and loaded at I -/

/-- A store at I reads back byte by byte, through every wrap of the addresses (R54, R61). -/
theorem State.byteAt_writeBytes_transferBytes {count : Nat} {bs : List Byte} (len : bs.length = count)
    (fits : count ≤ memorySize) {k : Nat} (hk : k < count) :
    (s.writeBytes (s.transferBytes count) bs).byteAt ((s.i.toNat + k) % memorySize) = bs[k] := by
  rw [← s.getElem_transferBytes (by simpa using hk)]
  exact s.byteAt_writeBytes (s.transferBytes_nodup fits) (by simp [len]) _

/-- A register load from I fills V0 to Vx with the bytes there. -/
theorem getElem_loadRegs_transferBytes (x : Reg) {r : Reg} (hr : r ≤ x) :
    (loadRegs s.v 0 ((s.transferBytes (x.val + 1)).map s.byteAt))[r] =
      s.byteAt ((s.i.toNat + r.val) % memorySize) := by
  have hr : r.val < x.val + 1 := Nat.lt_succ_of_le hr
  refine (getElem_loadRegs s.v 0 _ r r.isLt).trans ?_
  simp [hr]

/-! ### Allowed transfers -/

/-- The digits of a byte as numbers: none is lost in a byte (R124). -/
theorem map_toNat_bcdDigits (b : Byte) :
    (bcdDigits b).map BitVec.toNat = [b.toNat / 100, b.toNat / 10 % 10, b.toNat % 10] := by
  have byte := b.isLt
  simp only [bcdDigits, List.map_cons, List.map_nil, BitVec.toNat_ofNat, List.cons.injEq, and_true]
  omega

/-- Settles O36: the three digits are stored at the three different bytes of the transfer. -/
theorem bcdStoresThreeDigits : Obligations.BcdStoresThreeDigits := by
  intro s x allowed
  have digit {k : Nat} (hk : k < 3) :
      ((s.writeBytes (s.transferBytes 3) (bcdDigits (s.reg x))).byteAt ((s.i.toNat + k) % memorySize)).toNat =
        [(s.reg x).toNat / 100, (s.reg x).toNat / 10 % 10, (s.reg x).toNat % 10][k] := by
    rw [s.byteAt_writeBytes_transferBytes (count := 3) rfl (by decide) hk]
    simp only [← map_toNat_bcdDigits, List.getElem_map]
  exact ⟨_, s.transfer_allowed _ allowed, digit (k := 0) (by decide), digit (k := 1) (by decide),
    digit (k := 2) (by decide), changesOnly_writeBytes s _ _⟩

/-- Settles O37: V0 to Vx are stored at the different bytes of the transfer, then I is bumped. -/
theorem registerDumpStoresV0ToVx : Obligations.RegisterDumpStoresV0ToVx := by
  intro s x allowed
  refine ⟨_, s.transfer_allowed _ allowed, fun r hr => ?_, ?_, ?_⟩
  · have stored := s.byteAt_writeBytes_transferBytes (s.length_dumpBytes x) (by simp only [memorySize]; omega)
      (Nat.lt_succ_of_le hr)
    rw [s.getElem_dumpBytes] at stored
    exact (State.byteAt_bumpIndex _ x _).trans stored
  · rw [State.toNat_i_bumpIndex, State.indexAfter_writeBytes]
  · exact ((changesOnly_writeBytes s _ _).trans (changesOnly_index_bumpIndex _ x)).mono
      (List.perm_append_singleton _ _).subset

/-- Settles O38: V0 to Vx are loaded from the bytes of the transfer, then I is bumped. -/
theorem registerLoadReadsV0ToVx : Obligations.RegisterLoadReadsV0ToVx := by
  intro s x allowed
  refine ⟨_, s.transfer_allowed _ allowed, fun r hr => ?_, State.toNat_i_bumpIndex _ x, ?_⟩
  · exact (State.reg_bumpIndex _ x r).trans (getElem_loadRegs_transferBytes s x hr)
  · exact ((changesOnly_loadRegs s x (by simp)).trans (changesOnly_index_bumpIndex _ x)).mono
      (List.perm_append_singleton _ _).subset

/-- What a dump that ran has stored, and what it left. -/
theorem dump_stored {s t : State} {x : Reg} (allowed : s.transferAllowed (x.val + 1))
    (dump : exec (.ldIVx x) s = .next t) :
    (∀ r ≤ x, t.byteAt ((s.i.toNat + r.val) % 4096) = s.reg r) ∧
      ChangesOnly (.index :: (s.transferBytes (x.val + 1)).map .byte) s t := by
  obtain ⟨t', dump', stored, -, frame⟩ := registerDumpStoresV0ToVx s x allowed
  obtain rfl : t' = t := Host.Outcome.next.inj (dump'.symm.trans dump)
  exact ⟨stored, frame⟩

/-- Settles O40: the load reads the bytes that the dump stored, under the same policy. -/
theorem loadAfterDumpRestoresRegisters : Obligations.LoadAfterDumpRestoresRegisters := by
  intro s t x r v allowed hr dump
  obtain ⟨stored, frame⟩ := dump_stored allowed dump
  have params : t.params = s.params := frame .params (by simp)
  have allowed' : State.transferAllowed { t with v := v, i := s.i } (x.val + 1) := by
    show t.params.addrPolicy = _ ∨ _; rw [params]; exact allowed
  obtain ⟨u, load, loaded, -⟩ := registerLoadReadsV0ToVx _ x allowed'
  exact ⟨u, load, (loaded r hr).trans (stored r hr)⟩

/-- Settles O41: after the dump the two bytes at pc are V0 and V1, and the fetch still passes its check. -/
theorem storedWordIsFetchedAtOnce : Obligations.StoredWordIsFetchedAtOnce := by
  intro s t i running atPc allowed decoded dump
  obtain ⟨stored, frame⟩ := dump_stored allowed dump
  have pc : t.pc.toNat = s.i.toNat := (congrArg BitVec.toNat (frame .pc (by simp))).trans atPc.symm
  have params : t.params = s.params := frame .params (by simp)
  have run : t.run = .running := (frame .run (by simp)).trans running
  have fetches : t.params.addrPolicy = .wrap12 ∨ t.pc.toNat + 1 < 4096 := by
    rw [params, pc]
    exact allowed.imp_right fun inside => by simp only [memorySize] at inside; omega
  refine ((stepRunsTheDecodedInstruction t).2 run fetches).1 i ?_
  have hi : t.byteAt (s.i.toNat % 4096) = s.reg 0 := stored 0 (by decide)
  have lo : t.byteAt ((s.i.toNat + 1) % 4096) = s.reg 1 := stored 1 (by decide)
  rw [pc, hi, lo]; exact decoded

/-! ### Denied transfers -/

/-- Settles O39: each of the four is one transfer, which fails at the larger of I and 0x1000. -/
theorem deniedTransfersChangeNothing : Obligations.DeniedTransfersChangeNothing := by
  intro s x y n i count which policy nonempty outside
  have transfers : ∃ k, exec i s = s.transfer count k := by
    rcases which with ⟨rfl, rfl⟩ | ⟨rfl, rfl⟩ | ⟨rfl, rfl⟩ | ⟨rfl, rfl⟩ <;> exact ⟨_, rfl⟩
  obtain ⟨k, transfer⟩ := transfers
  have denied : ¬ s.transferAllowed count := by
    rintro (wrap | none | inside)
    · rw [policy] at wrap; cases wrap
    · exact nonempty.ne' none
    · exact outside.not_ge inside
  have first : max s.i.toNat memorySize = if 4096 ≤ s.i.toNat then s.i.toNat else 4096 := max_def' _ _
  refine ⟨_, transfer.trans (s.transfer_denied k denied), ?_, changesOnly_raise s _⟩
  rw [← first]; rfl

end Sys2Proof.Machine
end

section
/-! SUPPORT. Everything the decoder can answer for a word, found once along its branches, and that it reads every
well-formed instruction back from its word (R71 to R75, R79, R80, R85). -/

namespace Sys2Proof

/-- Settles O1: the fields of the packed word are those it was packed from, so each test of the decoder is settled; the
register of `Bnnn` comes back as the top nibble of its address, which well-formedness says it is (R73). -/
theorem decodeOfEncodeIsIdentity : Obligations.DecodeOfEncodeIsIdentity := by
  intro i wf
  cases i with
  | cls => rfl
  | ret => rfl
  | jpV0 x nnn =>
    have top : fieldX (packAddr 0xB nnn) = x :=
      Fin.ext ((fieldX_packAddr 0xB nnn).trans (beq_iff_eq.1 wf).symm)
    calc decode (encode (.jpV0 x nnn))
        = .ok (.jpV0 (fieldX (packAddr 0xB nnn)) nnn) := by simp [encode, decode]
      _ = .ok (.jpV0 x nnn) := by rw [top]
  | _ => simp [encode, decode, decodeAlu, decodeKeys, decodeMisc]

/-- The words that R80 lists as Unknown, family by family. -/
abbrev InGap (op : Word) : Prop :=
  (header op = 0x0 ∧ fieldNNN op ≠ 0x0E0 ∧ fieldNNN op ≠ 0x0EE) ∨
  (header op = 0x5 ∧ fieldN op ≠ 0) ∨
  (header op = 0x8 ∧ fieldN op ∈ ([0x8, 0x9, 0xA, 0xB, 0xC, 0xD, 0xF] : List Nibble)) ∨
  (header op = 0x9 ∧ fieldN op ≠ 0) ∨
  (header op = 0xE ∧ fieldNN op ≠ 0x9E ∧ fieldNN op ≠ 0xA1) ∨
  (header op = 0xF ∧ fieldNN op ∉ ([0x07, 0x0A, 0x15, 0x18, 0x1E, 0x29, 0x33, 0x55, 0x65] : List Byte))

/-- What a decoder may answer for a word: a well-formed instruction whose word it is, or Unknown with that word, where
it lies in a gap. -/
inductive Reads (op : Word) : Except DecodeError Instr → Prop where
  | instr {i : Instr} (wf : i.wellFormed = true) (word : encode i = op) : Reads op (.ok i)
  | unknown (gap : InGap op) : Reads op (.error (.unknown op))

section
variable {op : Word} {h : Nibble}

/-- One test of the decoder. -/
theorem Reads.ite {c : Prop} [Decidable c] {yes no : Except DecodeError Instr}
    (selected : c → Reads op yes) (others : ¬ c → Reads op no) : Reads op (if c then yes else no) := by
  by_cases hc : c
  · rw [if_pos hc]; exact selected hc
  · rw [if_neg hc]; exact others hc

/-- One row of R79 as the decoder tests it: it selects an instruction, or the rows after it decide. -/
theorem Reads.row {c : Prop} [Decidable c] {i : Instr} {rest : Except DecodeError Instr}
    (wf : i.wellFormed = true) (word : c → encode i = op) (others : ¬ c → Reads op rest) :
    Reads op (if c then .ok i else rest) := .ite (fun hc => .instr wf (word hc)) others

/-! ### A word is its known header and sub-selector, and the fields it decodes into -/

theorem packAddr_of_header (hh : header op = h) : packAddr h (fieldNNN op) = op := hh ▸ packAddr_fields op

theorem packByte_of_header (hh : header op = h) : packByte h (fieldX op) (fieldNN op) = op :=
  hh ▸ packByte_fields op

theorem packRegs_of_header (hh : header op = h) : packRegs h (fieldX op) (fieldY op) (fieldN op) = op :=
  hh ▸ packRegs_fields op

theorem packAddr_of_selected {nnn : Address} (hh : header op = h) (sel : fieldNNN op = nnn) :
    packAddr h nnn = op := sel ▸ packAddr_of_header hh

theorem packByte_of_selected {nn : Byte} (hh : header op = h) (sel : fieldNN op = nn) :
    packByte h (fieldX op) nn = op := sel ▸ packByte_of_header hh

theorem packRegs_of_selected {n : Nibble} (hh : header op = h) (sel : fieldN op = n) :
    packRegs h (fieldX op) (fieldY op) n = op := sel ▸ packRegs_of_header hh

/-- The two places where a `Bnnn` word holds `x` agree (R73). -/
theorem wellFormed_jpV0_fields (op : Word) : (Instr.jpV0 (fieldX op) (fieldNNN op)).wellFormed = true := by
  refine beq_iff_eq.2 ?_
  rw [val_fieldX, toNat_fieldNNN]; omega

/-! ### The decoder, family by family (R75) -/

theorem decodeSystem_reads (hh : header op = 0x0) : Reads op (decodeSystem op) := by
  unfold decodeSystem
  refine .row rfl (packAddr_of_selected hh) fun cls => ?_
  refine .row rfl (packAddr_of_selected hh) fun ret => ?_
  exact .unknown (.inl ⟨hh, cls, ret⟩)

theorem decodeAlu_reads (hh : header op = 0x8) : Reads op (decodeAlu op) := by
  unfold decodeAlu
  iterate 9 refine .row rfl (packRegs_of_selected hh) fun _ => ?_
  have gap : fieldN op ∈ ([0x8, 0x9, 0xA, 0xB, 0xC, 0xD, 0xF] : List Nibble) := by
    simp only [List.mem_cons, List.not_mem_nil]; bv_omega
  exact .unknown (.inr (.inr (.inl ⟨hh, gap⟩)))

theorem decodeKeys_reads (hh : header op = 0xE) : Reads op (decodeKeys op) := by
  unfold decodeKeys
  refine .row rfl (packByte_of_selected hh) fun skp => ?_
  refine .row rfl (packByte_of_selected hh) fun sknp => ?_
  exact .unknown (.inr (.inr (.inr (.inr (.inl ⟨hh, skp, sknp⟩)))))

theorem decodeMisc_reads (hh : header op = 0xF) : Reads op (decodeMisc op) := by
  unfold decodeMisc
  iterate 9 refine .row rfl (packByte_of_selected hh) fun _ => ?_
  have gap : fieldNN op ∉ ([0x07, 0x0A, 0x15, 0x18, 0x1E, 0x29, 0x33, 0x55, 0x65] : List Byte) := by
    simp only [List.mem_cons, List.not_mem_nil]; tauto
  exact .unknown (.inr (.inr (.inr (.inr (.inr ⟨hh, gap⟩)))))

/-- The headers in the decoder's order; the last family is left when all others are excluded. -/
theorem decode_reads (op : Word) : Reads op (decode op) := by
  unfold decode
  refine .ite decodeSystem_reads fun _ => ?_
  iterate 2 refine .row rfl packAddr_of_header fun _ => ?_
  iterate 2 refine .row rfl packByte_of_header fun _ => ?_
  refine .ite (fun h5 => .row rfl (packRegs_of_selected h5) fun hn => ?_) fun _ => ?_
  · exact .unknown (.inr (.inl ⟨h5, hn⟩))
  iterate 2 refine .row rfl packByte_of_header fun _ => ?_
  refine .ite decodeAlu_reads fun _ => ?_
  refine .ite (fun h9 => .row rfl (packRegs_of_selected h9) fun hn => ?_) fun _ => ?_
  · exact .unknown (.inr (.inr (.inr (.inl ⟨h9, hn⟩))))
  refine .row rfl packAddr_of_header fun _ => ?_
  refine .row (wellFormed_jpV0_fields op) packAddr_of_header fun _ => ?_
  refine .row rfl packByte_of_header fun _ => ?_
  refine .row rfl packRegs_of_header fun _ => ?_
  refine .ite decodeKeys_reads fun _ => ?_
  have last : header op = 0xF := by bv_omega
  exact decodeMisc_reads last

end

/-- The two ends of decoding, as equations. -/
theorem decode_cases (op : Word) :
    (∃ i, decode op = .ok i ∧ i.wellFormed = true ∧ encode i = op) ∨
      (decode op = .error (.unknown op) ∧ InGap op) := by
  have reads := decode_reads op
  generalize decode op = answer at reads
  cases reads with
  | instr wf word => exact .inl ⟨_, rfl, wf, word⟩
  | unknown gap => exact .inr ⟨rfl, gap⟩

/-- Settles O2: of the decoder's two ends, the one that is an instruction. -/
theorem encodeOfDecodeIsIdentity : Obligations.EncodeOfDecodeIsIdentity := by
  intro op i decoded
  obtain ⟨j, answer, wf, word⟩ | ⟨none, -⟩ := decode_cases op
  · obtain rfl : j = i := Except.ok.inj (answer.symm.trans decoded)
    exact ⟨wf, word⟩
  · cases none.symm.trans decoded

end Sys2Proof
end

section
/-! SUPPORT. The table of R79 beside the decoder: its rows exclude each other and the gaps of R80, and every
instruction's word lies in the instruction's row. -/

namespace Sys2Proof

/-- Two different rows differ in a bit that both their masks keep. -/
theorem opcodeTable_disjoint : ∀ r ∈ opcodeTable, ∀ q ∈ opcodeTable,
    r.pattern &&& q.mask = q.pattern &&& r.mask → r = q := by decide

/-- No word matches two rows (R79). -/
theorem opcodeTable_unique {r q : OpcodeRow} {op : Word} (hr : r ∈ opcodeTable) (hq : q ∈ opcodeTable)
    (matchesR : r.accepts op = true) (matchesQ : q.accepts op = true) : r = q := by
  have patternR : op &&& r.mask = r.pattern := beq_iff_eq.1 matchesR
  have patternQ : op &&& q.mask = q.pattern := beq_iff_eq.1 matchesQ
  refine opcodeTable_disjoint r hr q hq ?_
  rw [← patternR, ← patternQ, BitVec.and_assoc, BitVec.and_assoc, BitVec.and_comm r.mask]

/-- Every mask keeps the header and the sub-selector of its family (R74), and no pattern lies in a gap. -/
theorem opcodeTable_masks : ∀ r ∈ opcodeTable, ¬ InGap r.pattern ∧ header r.mask = BitVec.allOnes 4 ∧
    (header r.pattern = 0x0 → fieldNNN r.mask = BitVec.allOnes 12) ∧
    (header r.pattern ∈ ([0x5, 0x8, 0x9] : List Nibble) → fieldN r.mask = BitVec.allOnes 4) ∧
    (header r.pattern ∈ ([0xE, 0xF] : List Nibble) → fieldNN r.mask = BitVec.allOnes 8) := by decide

/-- A mask that is all ones on a field keeps the field. -/
theorem extractLsb'_and_of_allOnes {op mask : Word} {start len : Nat}
    (ones : mask.extractLsb' start len = BitVec.allOnes len) :
    (op &&& mask).extractLsb' start len = op.extractLsb' start len := by
  rw [BitVec.extractLsb'_and, ones, BitVec.and_allOnes]

/-- A word that matches a row lies in no gap: it has the header and the sub-selector of the row's pattern. -/
theorem not_inGap_of_accepts {r : OpcodeRow} {op : Word} (hr : r ∈ opcodeTable) (accepted : r.accepts op = true) :
    ¬ InGap op := by
  obtain ⟨noGap, head, wide, low, byte⟩ := opcodeTable_masks r hr
  have pattern : op &&& r.mask = r.pattern := beq_iff_eq.1 accepted
  have keepsHead : header (op &&& r.mask) = header op := extractLsb'_and_of_allOnes head
  rw [← pattern] at noGap
  rw [← pattern, keepsHead] at wide low byte
  have keepsNNN (h) : fieldNNN (op &&& r.mask) = fieldNNN op := extractLsb'_and_of_allOnes (wide h)
  have keepsN (h) : fieldN (op &&& r.mask) = fieldN op := extractLsb'_and_of_allOnes (low h)
  have keepsNN (h) : fieldNN (op &&& r.mask) = fieldNN op := extractLsb'_and_of_allOnes (byte h)
  refine fun gap => noGap ?_
  rw [InGap, keepsHead]
  rcases gap with ⟨h, gap⟩ | ⟨h, gap⟩ | ⟨h, gap⟩ | ⟨h, gap⟩ | ⟨h, gap⟩ | ⟨h, gap⟩
  · rw [keepsNNN h]; exact .inl ⟨h, gap⟩
  · rw [keepsN (by simp [h])]; exact .inr (.inl ⟨h, gap⟩)
  · rw [keepsN (by simp [h])]; exact .inr (.inr (.inl ⟨h, gap⟩))
  · rw [keepsN (by simp [h])]; exact .inr (.inr (.inr (.inl ⟨h, gap⟩)))
  · rw [keepsNN (by simp [h])]; exact .inr (.inr (.inr (.inr (.inl ⟨h, gap⟩))))
  · rw [keepsNN (by simp [h])]; exact .inr (.inr (.inr (.inr (.inr ⟨h, gap⟩))))

theorem row_mem_opcodeTable (i : Instr) : i.row ∈ opcodeTable := by
  cases i <;> exact List.mem_of_elem_eq_true rfl

open Laws.InRow in
theorem row_accepts_encode (i : Instr) : i.row.accepts (encode i) = true :=
  Instr.rec (motive := Statement) cls ret jp call seByte sneByte seReg ldByte addByte ldReg orReg andReg xorReg addReg
    subReg shrReg subnReg shlReg sneReg ldI jpV0 rnd drw skp sknp ldVxDT ldVxK ldDTVx ldSTVx addI ldF ldB ldIVx ldVxI i

/-- Settles O3: a word that decodes is in its instruction's row, and in no other since the rows exclude each other; one
that does not decode lies in a gap, and so in no row. -/
theorem decodeAgreesWithOpcodeTable : Obligations.DecodeAgreesWithOpcodeTable := by
  intro op
  obtain ⟨i, decoded, -, rfl⟩ | ⟨none, gap⟩ := decode_cases op
  · have mem := row_mem_opcodeTable i
    have accepted := row_accepts_encode i
    have only (r) (hr : r ∈ opcodeTable) (matched : r.accepts (encode i) = true) : r = i.row :=
      opcodeTable_unique hr mem matched accepted
    refine ⟨fun j answer => ?_, fun r hr matched => ⟨i, decoded, (only r hr matched).symm⟩, fun unmatched => ?_⟩
    · obtain rfl : i = j := Except.ok.inj (decoded.symm.trans answer)
      exact ⟨mem, accepted, only⟩
    · cases accepted.symm.trans (unmatched i.row mem)
  · refine ⟨fun i decoded => ?_, fun r hr matched => ?_, fun _ => none⟩
    · cases none.symm.trans decoded
    · exact absurd gap (not_inGap_of_accepts hr matched)

/-- Settles O4: the decoder answers Unknown in gaps alone, and an instruction's word matches a row, so lies in none. -/
theorem unknownWordsAreTheFamiliesGaps : Obligations.UnknownWordsAreTheFamiliesGaps := by
  intro op
  obtain ⟨i, decoded, -, rfl⟩ | ⟨none, gap⟩ := decode_cases op
  · have noGap := not_inGap_of_accepts (row_mem_opcodeTable i) (row_accepts_encode i)
    exact ⟨fun none => (nomatch none.symm.trans decoded), fun gap => absurd gap noGap⟩
  · exact ⟨fun _ => gap, fun _ => none⟩

end Sys2Proof
end

section
/-! SUPPORT. The step at an unknown word, and at a word placed for it (R76 to R80; log entry 8). -/

namespace Sys2Proof.Machine

/-- Settles O8: the third end of a step (`StepsTo.unknown`) advances pc and records the word. -/
theorem unknownWordIsRecordedPastIt : Obligations.UnknownWordIsRecordedPastIt := by
  intro s op running fetched none
  exact ⟨_, step_eq_next_iff.2 (.unknown running fetched none), rfl, BitVec.toNat_add _ _,
    (changesOnly_setPc s _).trans (changesOnly_raise _ _)⟩

theorem State.readyToFetch_run (s : State) : s.readyToFetch.run = .running := by
  unfold State.readyToFetch; split <;> rfl

theorem State.readyToFetch_allowed (s : State) :
    s.readyToFetch.params.addrPolicy = .wrap12 ∨ s.readyToFetch.pc.toNat + 1 < memorySize := by
  unfold State.readyToFetch
  split
  · exact .inr (show 0x200 + 1 < memorySize by decide)
  · next admitted =>
    cases policy : s.params.addrPolicy with
    | wrap12 => exact .inl policy
    | fault => exact .inr (Nat.lt_of_not_ge fun outside => admitted ⟨policy, outside⟩)

/-- The two bytes stored at pc are the word the fetch reads, where it passes its check (R55, R77). -/
theorem State.fetch_storeAtPc (s : State) (op : Word)
    (allowed : s.params.addrPolicy = .wrap12 ∨ s.pc.toNat + 1 < memorySize) :
    (s.storeAtPc op).fetch = .ok op := by
  have apart : (s.pc.toNat + 1) % memorySize ≠ s.pc.toNat % memorySize := by
    simp only [memorySize]; omega
  have high : (s.storeAtPc op).byteAt (s.pc.toNat % memorySize) = highByte op := by
    simp [State.storeAtPc, State.byteAt_writeByte, apart]
  have low : (s.storeAtPc op).byteAt ((s.pc.toNat + 1) % memorySize) = lowByte op := by
    simp [State.storeAtPc, State.byteAt_writeByte]
  have pc : (s.storeAtPc op).pc = s.pc := rfl
  have fetched := (s.storeAtPc op).fetch_of_allowed allowed
  rwa [pc, high, low, wordOfBytes_bytes] at fetched

theorem decode_of_decodeTableWord {w : Nat} {i : Instr} (h : decodeTableWord 16 w = some i) :
    decode (tableWord 16 w) = .ok i := by
  unfold decodeTableWord decodeBytes at h
  rw [wordOfBytes_bytes] at h
  split at h
  · next decoded => cases h; exact decoded
  · cases h

/-- Settles O60: the placed word is what the next step fetches, and the step runs what it decodes to. -/
theorem placedWordRunsNext : Obligations.PlacedWordRunsNext := by
  intro s w i decoded
  have fetched := s.readyToFetch.fetch_storeAtPc (tableWord 16 w) s.readyToFetch_allowed
  exact step_of_decoded s.readyToFetch_run fetched (decode_of_decodeTableWord decoded)

end Sys2Proof.Machine
end

section
/-! SUPPORT. Jumps, returns and skips (R96 to R104), and the self-jump that a machine never leaves (R178). -/

namespace Sys2Proof.Machine

/-- Settles O22: RET's two ends are those of the pop. -/
theorem retPopsTheReturnAddress : Obligations.RetPopsTheReturnAddress := by
  intro s
  constructor
  · intro pos _
    exact ⟨_, execRet_of_pos pos, rfl, rfl, ((changesOnly_setSp s _).trans (changesOnly_setPc _ _)).mono (by simp)⟩
  · intro empty
    exact ⟨_, execRet_of_empty empty, rfl, changesOnly_raise s _⟩

/-- The base of Bnnn is the register that the `jumping` quirk selects (R104). -/
theorem State.jumpBase_eq (s : State) (x : Reg) :
    s.jumpBase x = s.reg (if s.params.quirks.jumping then x else 0) := (apply_ite s.reg _ x 0).symm

/-- A byte and an address add up without a wrap of pc (R104). -/
theorem toNat_zextByte_add_zext (b : Byte) (nnn : Address) :
    (zextByte b + zext nnn).toNat = b.toNat + nnn.toNat := by
  have hb := b.isLt
  have ha := nnn.isLt
  rw [BitVec.toNat_add, toNat_zextByte, toNat_zext, Nat.mod_eq_of_lt (by omega)]

/-- Settles O25: both jumps write pc alone, and the target of Bnnn is an exact sum. -/
theorem jumpsSetThePc : Obligations.JumpsSetThePc := by
  intro s x nnn
  refine ⟨⟨_, rfl, toNat_zext nnn, changesOnly_setPc s _⟩, _, rfl, ?_, changesOnly_setPc s _⟩
  rw [← s.jumpBase_eq x]
  exact toNat_zextByte_add_zext (s.jumpBase x) nnn

/-- A skip on a test of `P` writes pc alone, with the target of a skip on `P` (R96). -/
theorem State.skipIf_skips (s : State) {c : Bool} {P : Prop} [Decidable P] (tests : c = true ↔ P) :
    ∃ t, s.skipIf c = .next t ∧ t.pc.toNat = skipTarget s.pc.toNat P ∧ ChangesOnly [.pc] s t := by
  rw [show decide P = c from Bool.eq_iff_iff.2 (decide_eq_true_iff.trans tests.symm)]
  refine ⟨_, s.skipIf_eq c, ?_, changesOnly_setPc s _⟩
  cases c with
  | false => rfl
  | true => exact BitVec.toNat_add s.pc 2

/-- Settles O26: each register skip is a skip on its comparison. -/
theorem skipsCompareRegisters : Obligations.SkipsCompareRegisters := fun s _ _ _ =>
  ⟨s.skipIf_skips beq_iff_eq, s.skipIf_skips bne_iff_ne, s.skipIf_skips beq_iff_eq, s.skipIf_skips bne_iff_ne⟩

/-- What a self-jump is (R178). -/
theorem State.selfJump_iff (s : State) : s.selfJump = true ↔
    s.run = .running ∧ ∃ op nnn, s.fetch = .ok op ∧ decode op = .ok (.jp nnn) ∧ zext nnn = s.pc := by
  constructor
  · intro h
    unfold State.selfJump at h
    split at h
    · next op running fetched =>
      split at h
      · next nnn decoded => exact ⟨running, op, nnn, fetched, decoded, eq_of_beq h⟩
      · cases h
    · cases h
  · rintro ⟨running, op, nnn, fetched, decoded, self⟩
    simp [State.selfJump, running, fetched, decoded, self]

/-- At a self-jump the jump takes back the pc advance (R78, R98). -/
theorem step_of_selfJump {s : State} (h : s.selfJump = true) : step s = .next s := by
  obtain ⟨running, op, nnn, fetched, decoded, self⟩ := s.selfJump_iff.1 h
  calc step s
    _ = exec (.jp nnn) s.advance := step_of_decoded running fetched decoded
    _ = .next (s.advance.setPc (zext nnn)) := rfl
    _ = .next s := by rw [self]; rfl

/-- A run from a state that steps to itself ends where it began. -/
theorem run_of_step_self {M : Host.Core} {s : M.State} (fixed : M.step s = .next s) (n : Nat) :
    M.run n s = .next s := by
  induction n with
  | zero => rfl
  | succ n ih => rw [Host.Core.run, fixed]; exact ih

/-- Settles O59: a self-jump is a fixed point of the step. -/
theorem selfJumpStaysForEver : Obligations.SelfJumpStaysForEver :=
  fun _ n atSelfJump => run_of_step_self (M := core) (step_of_selfJump atSelfJump) n

end Sys2Proof.Machine
end

section
/-! SUPPORT. Register loads, arithmetic, logic and shifts (R106 to R117): the flags as numbers, and what one register
write, WriteRF and a bitwise operation leave. -/

namespace Sys2Proof.Machine

/-- The flag of a condition as a number. -/
theorem toNat_flagByte_decide (P : Prop) [Decidable P] : (flagByte (decide P)).toNat = if P then 1 else 0 := by
  by_cases h : P <;> simp [flagByte, h]

theorem toNat_carryFlag (a b : Byte) : (carryFlag a b).toNat = if a.toNat + b.toNat > 255 then 1 else 0 :=
  toNat_flagByte_decide _

theorem toNat_noBorrowFlag (a b : Byte) : (noBorrowFlag a b).toNat = if b.toNat ≤ a.toNat then 1 else 0 :=
  toNat_flagByte_decide _

/-- The flag of bit `k` as a number. -/
theorem toNat_flagByte_getLsbD (a : Byte) (k : Nat) : (flagByte (a.getLsbD k)).toNat = a.toNat / 2 ^ k % 2 := by
  rw [← Nat.toNat_testBit, BitVec.testBit_toNat]
  cases a.getLsbD k <;> rfl

/-- The bit a right shift loses is the remainder by 2 (R115). -/
theorem toNat_lowBitFlag (a : Byte) : (lowBitFlag a).toNat = a.toNat % 2 := by
  rw [lowBitFlag, toNat_flagByte_getLsbD, pow_zero, Nat.div_one]

/-- The bit a left shift loses is the quotient by 128 (R117). -/
theorem toNat_highBitFlag (a : Byte) : (highBitFlag a).toNat = a.toNat / 128 := by
  have bound := a.isLt
  rw [highBitFlag, toNat_flagByte_getLsbD]
  omega

/-- The source of a shift is the register that the `shifting` quirk selects (R115, R117). -/
theorem State.shiftSource_eq (s : State) (x y : Reg) :
    s.shiftSource x y = s.reg (if s.params.quirks.shifting then x else y) := (apply_ite s.reg _ x y).symm

/-- A meaning that writes one register ends with its value there and changes nothing else. -/
theorem State.setReg_effect (s : State) (x : Reg) (b : Byte) :
    ∃ t, (.next (s.setReg x b) : Result) = .next t ∧ t.reg x = b ∧ ChangesOnly [.reg x] s t :=
  ⟨_, rfl, s.reg_setReg_self x b, changesOnly_setReg s x b⟩

/-- Settles O28: each load is one register write. -/
theorem loadsWriteOneRegister : Obligations.LoadsWriteOneRegister := fun s x y nn =>
  ⟨s.setReg_effect x nn, s.setReg_effect x (s.reg y), s.setReg_effect x s.dt⟩

/-- Settles O29: ADD Vx, nn is one register write, of the sum. -/
theorem addByteWrapsWithoutFlag : Obligations.AddByteWrapsWithoutFlag := by
  intro s x nn
  obtain ⟨t, ran, written, frame⟩ := s.setReg_effect x (s.reg x + nn)
  exact ⟨t, ran, written ▸ BitVec.toNat_add (s.reg x) nn, frame⟩

/-- A bitwise instruction writes a byte that is its operation bit by bit, and then applies the `vf_reset` quirk. -/
theorem exec_bitwise (s : State) {x y : Reg} {i : Instr} {f : Bool → Bool → Bool}
    (h : (i = .orReg x y ∧ f = or) ∨ (i = .andReg x y ∧ f = and) ∨ (i = .xorReg x y ∧ f = xor)) :
    ∃ b, exec i s = .next (s.setReg x b).vfResetQuirk ∧
      ∀ k, b.getLsbD k = f ((s.reg x).getLsbD k) ((s.reg y).getLsbD k) := by
  rcases h with ⟨rfl, rfl⟩ | ⟨rfl, rfl⟩ | ⟨rfl, rfl⟩
  · exact ⟨_, rfl, fun _ => BitVec.getLsbD_or⟩
  · exact ⟨_, rfl, fun _ => BitVec.getLsbD_and⟩
  · exact ⟨_, rfl, fun _ => BitVec.getLsbD_xor⟩

/-- Settles O30: the quirk leaves the result, but in VF with `vf_reset`, which it forces to 0. -/
theorem bitwiseOperationsAndVfReset : Obligations.BitwiseOperationsAndVfReset := by
  intro s x y i f h
  obtain ⟨b, ran, bits⟩ := exec_bitwise s h
  have frame := changesOnly_setReg_vfResetQuirk s x b
  have result (kept : ¬ (x = VF ∧ s.params.quirks.vfReset)) : (s.setReg x b).vfResetQuirk.reg x = b := by
    rw [State.reg_vfResetQuirk, State.setReg_params, if_neg kept, State.reg_setReg_self]
  refine ⟨_, ran, fun off => ⟨?_, fun k _ => ?_⟩, fun on => ⟨?_, ?_, fun other k _ => ?_⟩⟩
  · simpa [off] using frame
  · rw [result (by simp [off]), bits]
  · simpa [on] using frame
  · rw [State.reg_vfResetQuirk]; exact if_pos ⟨rfl, on⟩
  · rw [result fun ⟨vf, _⟩ => other vf, bits]

/-- WriteRF leaves the result and the flag, and in VF as the destination the one it writes last (R106). -/
theorem State.resultAndFlag_writeResultFlag (s : State) (x : Reg) (r f : Byte) :
    ResultAndFlag x r.toNat f.toNat s (s.writeResultFlag x r f) := by
  refine ⟨changesOnly_writeResultFlag s x r f, fun other => ?_, ?_⟩
  · simp [State.reg_writeResultFlag, other]
  · rintro rfl
    rw [State.reg_writeResultFlag]
    cases s.params.vfOrder <;> rfl

/-- A meaning that ends in WriteRF has the effect that its result and its flag, as numbers, say. -/
theorem State.writeResultFlag_effect (s : State) (x : Reg) {r f : Byte} {result flag : Nat}
    (hr : r.toNat = result) (hf : f.toNat = flag) :
    ∃ t, (.next (s.writeResultFlag x r f) : Result) = .next t ∧ ResultAndFlag x result flag s t :=
  ⟨_, rfl, hr ▸ hf ▸ s.resultAndFlag_writeResultFlag x r f⟩

/-- A difference of bytes, wrapped on borrow (R114, R116). -/
theorem toNat_sub_byte (a b : Byte) : (a - b).toNat = (a.toNat + 256 - b.toNat) % 256 := by bv_omega

/-- Settles O31: ADD Vx, Vy is WriteRF of the sum and the carry. -/
theorem addRegSetsCarry : Obligations.AddRegSetsCarry := fun s x y =>
  s.writeResultFlag_effect x (BitVec.toNat_add (s.reg x) (s.reg y)) (toNat_carryFlag (s.reg x) (s.reg y))

/-- Settles O32: SUB and SUBN are WriteRF of the two differences and their no-borrow flags. -/
theorem subtractionsSetNoBorrow : Obligations.SubtractionsSetNoBorrow := fun s x y =>
  ⟨s.writeResultFlag_effect x (toNat_sub_byte (s.reg x) (s.reg y)) (toNat_noBorrowFlag (s.reg x) (s.reg y)),
    s.writeResultFlag_effect x (toNat_sub_byte (s.reg y) (s.reg x)) (toNat_noBorrowFlag (s.reg y) (s.reg x))⟩

/-- A right shift by one halves a byte (R115). -/
theorem toNat_byte_shiftRight_one (a : Byte) : (a >>> 1).toNat = a.toNat / 2 := by
  rw [BitVec.toNat_ushiftRight, Nat.shiftRight_eq_div_pow, pow_one]

/-- A left shift by one doubles a byte mod 256 (R117). -/
theorem toNat_byte_shiftLeft_one (a : Byte) : (a <<< 1).toNat = a.toNat * 2 % 256 := by
  rw [BitVec.toNat_shiftLeft, Nat.shiftLeft_eq, pow_one]

/-- Settles O33: SHR and SHL are WriteRF of the shifted source and the bit it loses. -/
theorem shiftsSetTheLostBit : Obligations.ShiftsSetTheLostBit := by
  intro s x y v source
  rw [← s.shiftSource_eq] at source
  subst source
  exact ⟨s.writeResultFlag_effect x (toNat_byte_shiftRight_one _) (toNat_lowBitFlag _),
    s.writeResultFlag_effect x (toNat_byte_shiftLeft_one _) (toNat_highBitFlag _)⟩

end Sys2Proof.Machine
end

section
/-! SUPPORT. The instructions that set I (R121 to R123). -/

namespace Sys2Proof.Machine

/-- Vx is added to I mod 2^16 (R122; D7). -/
theorem toNat_add_zextByte (w : Word) (b : Byte) :
    (w + zextByte b).toNat = (w.toNat + b.toNat) % 65536 := by
  rw [BitVec.toNat_add, toNat_zextByte]

/-- The glyph address is the font base plus five times the whole byte, mod 2^16 (R123). -/
theorem toNat_glyphAddress (p : Params) (b : Byte) :
    (glyphAddress p b).toNat = (p.fontBase.toNat + 5 * b.toNat) % 65536 := by
  have five : (5 : Word).toNat = 5 := rfl
  rw [glyphAddress, BitVec.toNat_add, BitVec.toNat_mul, toNat_zextByte, five, Nat.add_mod_mod]

/-- A meaning that writes I ends with the word's number there and changes nothing else. -/
theorem State.setI_effect (s : State) {w : Word} {n : Nat} (hw : w.toNat = n) :
    ∃ t, (.next (s.setI w) : Result) = .next t ∧ t.i.toNat = n ∧ ChangesOnly [.index] s t :=
  ⟨_, rfl, hw, changesOnly_setI s w⟩

/-- Settles O35: each instruction is one write of I, of an address, a wrapped sum or a glyph address. -/
theorem indexInstructionsSetI : Obligations.IndexInstructionsSetI := fun s x nnn =>
  ⟨s.setI_effect (toNat_zext nnn), s.setI_effect (toNat_add_zextByte s.i (s.reg x)),
    s.setI_effect (toNat_glyphAddress s.params (s.reg x))⟩

end Sys2Proof.Machine
end

section
/-! SUPPORT. The display instructions one after another (R128 to R131): what fixes a sprite, and how two blits compose
to none. -/

namespace Sys2Proof.Machine

/-- Settles O42: CLS writes the screen alone, and with the blank one. -/
theorem clearScreenClearsEveryPixel : Obligations.ClearScreenClearsEveryPixel := fun s =>
  ⟨_, rfl, pixelAt_blankScreen, changesOnly_screen s _⟩

/-- What an allowed DRW answers: one step's effect on the pixels, and its frame (R129, R131). -/
theorem exec_drw_effect {s t : State} {x y : Reg} {n : Nibble} (allowed : s.transferAllowed n.toNat)
    (next : exec (.drw x y n) s = .next t) :
    (∀ row col, row < 32 → col < 64 →
      pixelAt t.fb row col = (pixelAt s.fb row col ^^ s.spriteBit x y n row col)) ∧
    ChangesOnly [.reg VF, .screen] s t := by
  obtain ⟨_, ran, pixels, -, -, frame⟩ := drawXorsTheSpriteAndReportsCollision s x y n allowed
  cases next.symm.trans ran
  exact ⟨pixels, frame⟩

/-- DRW leaves what its own sprite is read from: I, memory, and Vx and Vy where they are not VF (R129, R133). -/
theorem ChangesOnly.spriteBit_eq {s t : State} (frame : ChangesOnly [.reg VF, .screen] s t) {x y : Reg}
    (hx : x ≠ VF) (hy : y ≠ VF) (n : Nibble) : t.spriteBit x y n = s.spriteBit x y n := by
  have vx : t.reg x = s.reg x := frame (.reg x) (by simp [hx])
  have vy : t.reg y = s.reg y := frame (.reg y) (by simp [hy])
  have index : t.i = s.i := frame .index (by simp)
  have bytes (a : Nat) : t.byteAt a = s.byteAt a := frame (.byte a) (by simp)
  funext row col
  simp only [State.spriteBit, vx, vy, index, bytes]

/-- DRW leaves what decides whether it is allowed: I and the address policy (R120). -/
theorem ChangesOnly.transferAllowed_iff {s t : State} (frame : ChangesOnly [.reg VF, .screen] s t) (count : Nat) :
    t.transferAllowed count ↔ s.transferAllowed count := by
  have index : t.i = s.i := frame .index (by simp)
  have params : t.params = s.params := frame .params (by simp)
  rw [State.transferAllowed, index, params]

/-- Settles O44: the second draw XORs the same sprite bits into each pixel as the first, so they cancel. -/
theorem drawingTwiceRestoresTheScreen : Obligations.DrawingTwiceRestoresTheScreen := by
  intro s t u x y n hx hy allowed first second
  obtain ⟨pixels₁, frame₁⟩ := exec_drw_effect allowed first
  obtain ⟨pixels₂, frame₂⟩ := exec_drw_effect ((frame₁.transferAllowed_iff _).2 allowed) second
  have restored : u.fb = s.fb := Framebuffer.ext_pixelAt fun row col hr hc => by
    rw [pixels₂ row col hr hc, pixels₁ row col hr hc, frame₁.spriteBit_eq hx hy, Bool.xor_assoc,
      Bool.xor_self, Bool.xor_false]
  intro p hp
  by_cases screen : p = .screen
  · subst screen; exact restored
  · exact (frame₁.trans frame₂) p (by simpa [screen] using hp)

end Sys2Proof.Machine
end

section
/-! SUPPORT. The keypad and the timers (R134 to R140): the key that Vx names, the key skips' two ends, and the wait for
a key that a machine given none never leaves. -/

namespace Sys2Proof.Machine

/-- The state's key vector and the key numbers of the claims agree (R37). -/
theorem State.keyIsDown_mod (s : State) (n : Nat) :
    s.keyIsDown (n % 16) = s.keys[n % 16]'(Nat.mod_lt n (by decide)) := by
  simp [State.keyIsDown, List.getD_eq_getElem?_getD, Nat.mod_lt]

/-- A byte up to 0xF names its key under either policy, and any byte its low nibble's key under Mask4 (R136). -/
theorem keyIndex_of_named {policy : KeyIndexPolicy} {b : Byte} (named : b.toNat ≤ 15 ∨ policy = .mask4) :
    keyIndex policy b = .ok ⟨b.toNat % 16, Nat.mod_lt _ (by decide)⟩ := by
  rcases named with small | rfl
  · have bound : b.toNat < 16 := Nat.lt_succ_of_le small
    simp only [keyIndex_of_lt policy bound, Nat.mod_eq_of_lt bound]
  · exact keyIndex_mask4 b

/-- Where Vx names a key, a key skip is a skip on that key (R134, R135). -/
theorem State.keySkip_of_named (s : State) {x : Reg} (down : Bool)
    (named : (s.reg x).toNat ≤ 15 ∨ s.params.keyIndex = .mask4) :
    s.keySkip x down = s.skipIf (s.keyIsDown ((s.reg x).toNat % 16) == down) := by
  rw [State.keySkip, keyIndex_of_named named, s.keyIsDown_mod]; rfl

/-- Under Fault a key skip on a byte above 0xF raises BoundsFault, whichever skip it is (R136). -/
theorem State.keySkip_fault (s : State) {x : Reg} (down : Bool) (above : 15 < (s.reg x).toNat)
    (fault : s.params.keyIndex = .fault) :
    s.keySkip x down = .next (s.raise (.boundsFault (s.reg x).toNat)) := by
  rw [State.keySkip, fault, keyIndex_fault above]

/-- A key skip that names a key writes pc alone, with the target of a skip on whether the key is as asked (R96). -/
theorem State.keySkip_skips (s : State) {x : Reg} {down c : Bool}
    (named : (s.reg x).toNat ≤ 15 ∨ s.params.keyIndex = .mask4)
    (tests : (s.keyIsDown ((s.reg x).toNat % 16) == down) = c) :
    ∃ t, s.keySkip x down = .next t ∧ t.pc.toNat = skipTarget s.pc.toNat c ∧ ChangesOnly [.pc] s t := by
  rw [s.keySkip_of_named down named, tests]
  simpa only [Bool.decide_eq_true] using s.skipIf_skips (Iff.refl (c = true))

/-- Settles O27: the key index is a key, and the skip is on it, or it is an error, which is all the skip records. -/
theorem keySkipsTestTheNamedKey : Obligations.KeySkipsTestTheNamedKey := by
  intro s x
  constructor
  · intro named
    exact ⟨s.keySkip_skips (down := true) named (beq_true _), s.keySkip_skips (down := false) named (beq_false _)⟩
  · rintro above fault _ (rfl | rfl)
    · exact ⟨_, s.keySkip_fault true above fault, rfl, changesOnly_raise s _⟩
    · exact ⟨_, s.keySkip_fault false above fault, rfl, changesOnly_raise s _⟩

/-- A rewind takes back the pc advance (R78, R138). -/
@[simp] theorem State.rewind_advance (s : State) : s.advance.rewind = s :=
  congrArg (fun w => { s with pc := w }) (BitVec.add_sub_cancel s.pc 2)

/-- With no key down LD Vx, K takes back the pc advance (R78, R138). -/
theorem step_of_key_wait {s : State} {x : Reg} (running : s.run = .running)
    (fetched : s.fetch = .ok (encode (.ldVxK x))) (up : ∀ k : Reg, s.keys[k] = false) : step s = .next s := by
  calc step s
    _ = execLdVxK x s.advance := step_of_decoded running fetched (decodeOfEncodeIsIdentity (.ldVxK x) rfl)
    _ = .next s.advance.rewind := execLdVxK_of_no_key x up
    _ = .next s := by rw [s.rewind_advance]

/-- Settles O46: a wait for a key with none down is a fixed point of the step. -/
theorem keyWaitStallsWithoutAKey : Obligations.KeyWaitStallsWithoutAKey :=
  fun _ _ n running fetched up => run_of_step_self (M := core) (step_of_key_wait running fetched up) n

/-- Settles O47: each load is one write of its timer. -/
theorem timerLoadsSetTheTimers : Obligations.TimerLoadsSetTheTimers := fun s x =>
  ⟨⟨_, rfl, s.setDT_dt (s.reg x), changesOnly_setDT s _⟩, _, rfl, s.setST_st (s.reg x), changesOnly_setST s _⟩

end Sys2Proof.Machine
end

section
/-! SUPPORT. Every end of an instruction: it completes and records nothing, or it records one error and changes nothing
else (R141 to R150). -/

namespace Sys2Proof.Machine

/-- The instructions that move bytes between memory at I and the registers or the screen (R120). -/
abbrev Transfers (i : Instr) : Prop :=
  (∃ x, i = .ldB x) ∨ (∃ x, i = .ldIVx x) ∨ (∃ x, i = .ldVxI x) ∨ ∃ x y n, i = .drw x y n

/-- The errors that an instruction can report, each with what it takes for it (R144 to R146). -/
inductive ErrorCause (s : State) : Instr → StepError → Prop where
  | call {nnn : Address} (full : 16 ≤ s.sp) : ErrorCause s (.call nnn) .stackOverflow
  | ret (empty : s.sp = 0) : ErrorCause s .ret .emptyStack
  | transfer {i : Instr} (transfers : Transfers i) (policy : s.params.addrPolicy = .fault) :
    ErrorCause s i (.boundsFault (max s.i.toNat memorySize))
  | keySkip {i : Instr} {x : Reg} (skips : i = .skp x ∨ i = .sknp x) (policy : s.params.keyIndex = .fault)
    (above : 15 < (s.reg x).toNat) : ErrorCause s i (.boundsFault (s.reg x).toNat)

/-- The two ends of an instruction (R148): it completes, or it fails from a cause and leaves all but the record. -/
inductive Ends (i : Instr) (s : State) : Result → Prop where
  | completed {t : State} (kept : t.history = s.history) : Ends i s (.next t)
  | failed {e : StepError} (cause : ErrorCause s i e) : Ends i s (.next (s.raise e))

theorem State.addrPolicy_of_denied {s : State} {count : Nat} (denied : ¬ s.transferAllowed count) :
    s.params.addrPolicy = .fault := by
  cases policy : s.params.addrPolicy with
  | wrap12 => exact absurd (.inl policy) denied
  | fault => rfl

section
variable {i : Instr} {s : State}

/-- Neither end is a fault or a refusal (R141). -/
theorem Ends.answers {r : Result} (ends : Ends i s r) : ∃ t, r = .next t := by
  cases ends <;> exact ⟨_, rfl⟩

theorem Ends.skipIf {c : Bool} : Ends i s (s.skipIf c) := by
  rw [State.skipIf_eq]; exact .completed rfl

theorem Ends.keySkip {x : Reg} (down : Bool) (skips : i = .skp x ∨ i = .sknp x) : Ends i s (s.keySkip x down) := by
  by_cases named : (s.reg x).toNat ≤ 15 ∨ s.params.keyIndex = .mask4
  · rw [s.keySkip_of_named down named]; exact .skipIf
  · obtain ⟨above, unmasked⟩ := not_or.1 named
    have policy : s.params.keyIndex = .fault := by
      cases policy : s.params.keyIndex with
      | fault => rfl
      | mask4 => exact absurd policy unmasked
    rw [s.keySkip_fault down (Nat.lt_of_not_le above) policy]
    exact .failed (.keySkip skips policy (Nat.lt_of_not_le above))

theorem Ends.transfer {count : Nat} {k : List Nat → State} (transfers : Transfers i)
    (runs : (k (s.transferBytes count)).history = s.history) : Ends i s (s.transfer count k) := by
  by_cases allowed : s.transferAllowed count
  · rw [s.transfer_allowed k allowed]; exact .completed runs
  · rw [s.transfer_denied k allowed]; exact .failed (.transfer transfers (State.addrPolicy_of_denied allowed))

end

section
variable (s : State)

theorem Ends.execRet : Ends .ret s (execRet s) := by
  rcases Nat.eq_zero_or_pos s.sp with empty | pos
  · rw [execRet_of_empty empty]; exact .failed (.ret empty)
  · rw [execRet_of_pos pos]; exact .completed rfl

theorem Ends.execCall (nnn : Address) : Ends (.call nnn) s (execCall nnn s) := by
  rcases Nat.lt_or_ge s.sp 16 with room | full
  · rw [execCall_of_lt nnn room]; exact .completed rfl
  · rw [execCall_of_full nnn full]; exact .failed (.call full)

theorem Ends.execLdVxK (x : Reg) : Ends (.ldVxK x) s (execLdVxK x s) := by
  unfold Machine.execLdVxK
  split <;> exact .completed rfl

@[simp] theorem State.writeBytes_history (as : List Nat) (bs : List Byte) :
    (s.writeBytes as bs).history = s.history := by rw [State.writeBytes_eq]

@[simp] theorem State.bumpIndex_history (x : Reg) : (s.bumpIndex x).history = s.history := by
  rw [State.bumpIndex_eq]

@[simp] theorem State.vfResetQuirk_history : s.vfResetQuirk.history = s.history := by
  rw [State.vfResetQuirk_eq]

@[simp] theorem State.writeResultFlag_history (x : Reg) (r f : Byte) :
    (s.writeResultFlag x r f).history = s.history := by rw [State.writeResultFlag_eq]

/-- Every instruction answers a next state, by one of the two ends. -/
theorem exec_ends (i : Instr) : Ends i s (exec i s) := by
  cases i with
  | cls | jp | jpV0 | ldByte | addByte | ldReg | ldVxDT | rnd | ldI | addI | ldF | ldDTVx | ldSTVx =>
    exact .completed rfl
  | orReg | andReg | xorReg | addReg | subReg | shrReg | subnReg | shlReg => exact .completed (by simp)
  | seByte | sneByte | seReg | sneReg => exact .skipIf
  | ret => exact .execRet s
  | call nnn => exact .execCall s nnn
  | ldVxK x => exact .execLdVxK s x
  | skp x => exact .keySkip true (.inl rfl)
  | sknp x => exact .keySkip false (.inr rfl)
  | ldB x => exact .transfer (.inl ⟨x, rfl⟩) (by simp)
  | ldIVx x => exact .transfer (.inr (.inl ⟨x, rfl⟩)) (by simp)
  | ldVxI x => exact .transfer (.inr (.inr (.inl ⟨x, rfl⟩))) (by simp)
  | drw x y n => exact .transfer (.inr (.inr (.inr ⟨x, y, n, rfl⟩))) rfl

end

theorem exec_total (i : Instr) (s : State) : ∃ t, exec i s = .next t := (exec_ends s i).answers

theorem exec_next_cases {i : Instr} {s t : State} (next : exec i s = .next t) :
    t.history = s.history ∨ ∃ e, ErrorCause s i e ∧ t = s.raise e := by
  have ends := exec_ends s i
  rw [next] at ends
  cases ends with
  | completed kept => exact .inl kept
  | failed cause => exact .inr ⟨_, cause, rfl⟩

theorem not_raised_of_kept {s t : State} {e : StepError} (kept : t.history = s.history) : ¬ Raised e s t := by
  simp [Raised, kept]

theorem eq_of_raised_raise {s : State} {e f : StepError} (raised : Raised e s (s.raise f)) : f = e :=
  List.singleton_inj.1 (List.append_cancel_left raised)

/-- An instruction that records an error has a cause for that error, and did nothing but record it (R148). -/
theorem exec_raised {i : Instr} {s t : State} {e : StepError} (next : exec i s = .next t) (raised : Raised e s t) :
    ErrorCause s i e ∧ t = s.raise e := by
  rcases exec_next_cases next with kept | ⟨f, cause, rfl⟩
  · exact absurd raised (not_raised_of_kept kept)
  · obtain rfl := eq_of_raised_raise raised
    exact ⟨cause, rfl⟩

/-- Settles O11: each cause is one row of the table of errors (R142). -/
theorem errorsComeOnlyFromTheirCauses : Obligations.ErrorsComeOnlyFromTheirCauses := by
  intro i s t e bound next raised
  cases (exec_raised next raised).1 with
  | call full => exact ⟨⟨_, rfl⟩, bound.antisymm full⟩
  | ret empty => exact ⟨rfl, empty⟩
  | transfer transfers policy => exact .inl ⟨policy, le_max_right _ _, transfers⟩
  | keySkip skips policy above => exact .inr ⟨policy, above, _, skips, rfl⟩

end Sys2Proof.Machine
end

section
/-! SUPPORT. Every end of a step: at most one error is recorded, and the state beside it is that of R148 (R141, R149,
R150, R153). -/

namespace Sys2Proof.Machine

variable {s t : State}

theorem step_total (s : State) : ∃ t, StepsTo s t := by
  by_cases running : s.run = .running
  · cases fetched : s.fetch with
    | error e => exact ⟨_, .fetchFailed running fetched⟩
    | ok op =>
      cases decoded : decode op with
      | error gap =>
        obtain ⟨word⟩ := gap
        exact ⟨_, .unknown running fetched decoded⟩
      | ok i =>
        obtain ⟨t, next⟩ := exec_total i s.advance
        exact ⟨t, .ran running fetched decoded next⟩
  · exact ⟨s, .idle running⟩

theorem StepsTo.history (taken : StepsTo s t) : t.history = s.history ∨ ∃ e, Raised e s t := by
  cases taken with
  | idle => exact .inl rfl
  | fetchFailed | unknown => exact .inr ⟨_, rfl⟩
  | ran _ _ _ next =>
    rcases exec_next_cases next with kept | ⟨e, -, rfl⟩
    · exact .inl kept
    · exact .inr ⟨e, rfl⟩

/-- Settles O9: each end of the step keeps the record or adds one error. -/
theorem everyStepAnswersWithAtMostOneError : Obligations.EveryStepAnswersWithAtMostOneError := by
  intro s
  obtain ⟨t, taken⟩ := step_total s
  exact ⟨t, step_eq_next_iff.2 taken, taken.history⟩

/-- A step that records an error does nothing else, past the pc advance unless the fetch itself failed (R148). -/
theorem StepsTo.raised {e : StepError} (taken : StepsTo s t) (raised : Raised e s t) :
    ((∃ f, s.fetch = .error f) ∧ t = s.raise e) ∨ ((∃ op, s.fetch = .ok op) ∧ t = s.advance.raise e) := by
  cases taken with
  | idle => exact absurd raised (not_raised_of_kept rfl)
  | fetchFailed _ failed =>
    obtain rfl := eq_of_raised_raise raised
    exact .inl ⟨⟨_, failed⟩, rfl⟩
  | unknown _ fetched =>
    obtain rfl := eq_of_raised_raise raised
    exact .inr ⟨⟨_, fetched⟩, rfl⟩
  | ran _ fetched _ next => exact .inr ⟨⟨_, fetched⟩, (exec_raised next raised).2⟩

/-- Settles O10: whether the fetch passes its check decides which of the two states it is. -/
theorem stateAfterAnErrorIsPrecise : Obligations.StateAfterAnErrorIsPrecise := by
  intro s t e next raised
  rcases (step_eq_next_iff.1 next).raised raised with ⟨⟨f, failed⟩, rfl⟩ | ⟨⟨op, fetched⟩, rfl⟩
  · obtain ⟨policy, outside, -⟩ := s.fetch_error failed
    exact ⟨fun _ => changesOnly_raise s e, fun allowed => absurd ⟨policy, outside⟩ allowed⟩
  · refine ⟨fun ⟨policy, outside⟩ => ?_, fun _ =>
      ⟨BitVec.toNat_add _ _, (changesOnly_setPc s _).trans (changesOnly_raise _ e)⟩⟩
    rw [s.fetch_denied policy outside] at fetched
    cases fetched

theorem hostCall_step (taken : StepsTo s t) : hostCall .step s = .next (t, stepResult s t) := by
  rw [hostCall, step_eq_next_iff.2 taken]

theorem stepResult_of_kept (kept : t.history = s.history) : stepResult s t = .ok := by
  rw [stepResult, kept, List.drop_length]

theorem stepResult_of_raised {e : StepError} (raised : Raised e s t) : stepResult s t = .error e := by
  rw [stepResult, raised, List.drop_left]

/-- Settles O58: the result is read off the record, which the step kept or extended by one error. -/
theorem stepResultReportsTheError : Obligations.StepResultReportsTheError := by
  intro s
  obtain ⟨t, taken⟩ := step_total s
  refine ⟨t, _, hostCall_step taken, ?_⟩
  rcases taken.history with kept | ⟨e, raised⟩
  · exact .inl ⟨stepResult_of_kept kept, kept⟩
  · exact .inr ⟨e, stepResult_of_raised raised, raised⟩

end Sys2Proof.Machine
end

section
/-! SUPPORT. The timer ticks (R157, R158). -/

namespace Sys2Proof.Machine

theorem toNat_tick (b : Byte) : (tick b).toNat = b.toNat - 1 := by
  unfold tick
  split <;> bv_omega

theorem toNat_tick_iterate (b : Byte) (n : Nat) : (tick^[n] b).toNat = b.toNat - n := by
  induction n with
  | zero => rfl
  | succ n ih => rw [Function.iterate_succ_apply', toNat_tick, ih, Nat.sub_sub]

theorem changesOnly_timers (s : State) (delay sound : Byte) :
    ChangesOnly [.delay, .sound] s ((s.setDT delay).setST sound) :=
  (changesOnly_setDT s delay).trans (changesOnly_setST _ sound)

theorem onTimer_of_counting {s : State} (counts : s.params.timerGated = false ∨ s.run = .running) :
    onTimer s = (s.setDT (tick s.dt)).setST (tick s.st) := by
  refine if_neg ?_
  rintro ⟨gated, stopped⟩
  rcases counts with ungated | running
  · rw [ungated] at gated; cases gated
  · exact stopped running

theorem onTimer_of_gated {s : State} (gated : s.params.timerGated = true) (stopped : s.run ≠ .running) :
    onTimer s = s := if_pos ⟨gated, stopped⟩

theorem changesOnly_onTimer (s : State) : ChangesOnly [.delay, .sound] s (onTimer s) := by
  unfold onTimer
  split
  · exact (ChangesOnly.refl s).mono (List.nil_subset _)
  · exact changesOnly_timers s _ _

/-- Ticks that count reach the timers alone, one tick each. -/
theorem onTimer_iterate {s : State} (counts : s.params.timerGated = false ∨ s.run = .running) (n : Nat) :
    onTimer^[n] s = (s.setDT (tick^[n] s.dt)).setST (tick^[n] s.st) := by
  induction n with
  | zero => rfl
  | succ n ih =>
    simp only [Function.iterate_succ_apply', ih]
    exact onTimer_of_counting (s := (s.setDT _).setST _) counts

/-- Settles O48: a tick that counts is one `tick` of each timer, and a gated tick is no change. -/
theorem ticksCountTheTimersDown : Obligations.TicksCountTheTimersDown := by
  refine fun s n => ⟨fun counts => ?_, fun gated stopped => Function.iterate_fixed (onTimer_of_gated gated stopped) n⟩
  rw [onTimer_iterate counts]
  exact ⟨toNat_tick_iterate s.dt n, toNat_tick_iterate s.st n, changesOnly_timers s _ _⟩

end Sys2Proof.Machine
end

section
/-! SUPPORT. What sequences of host operations keep: the record of errors, and, without a reset, a Terminated machine
(R154, R156, R169). -/

namespace Sys2Proof.Machine

variable {op : HostOp} {s t : State} {r : HostResult}

theorem history_extended_of_kept (kept : t.history = s.history) : s.history <+: t.history := by rw [kept]

/-- No host operation takes an error off the record (R154). -/
theorem hostCall_extends_history (call : hostCall op s = .next (t, r)) : s.history <+: t.history := by
  cases op with
  | reset | getState | getFramebuffer | isAudioPlaying | terminate => cases call; exact history_extended_of_kept rfl
  | toggleExecution => cases call; rw [toggleExecution_eq]; exact history_extended_of_kept rfl
  | onTimer => cases call; exact history_extended_of_kept (changesOnly_onTimer s .history (by simp))
  | keyDown code | keyUp code => obtain ⟨k, rfl⟩ := keyEvent_next call; exact history_extended_of_kept rfl
  | step =>
    obtain ⟨u, taken⟩ := step_total s
    rw [hostCall_step taken] at call
    cases call
    rcases taken.history with kept | ⟨e, raised⟩
    · exact history_extended_of_kept kept
    · exact ⟨[e], raised.symm⟩

/-- Settles O57: each operation extends the record, so the sequence does. -/
theorem errorHistoryOnlyGrows : Obligations.ErrorHistoryOnlyGrows := by
  intro ops s t ran
  have grown : s.history <+: t.history :=
    hostRun_induction (P := fun u => s.history <+: u.history)
      (fun grown call => grown.trans (hostCall_extends_history call)) (history_extended_of_kept rfl) ran
  obtain ⟨es, appended⟩ := grown
  exact ⟨es, appended.symm⟩

theorem terminate_of_terminated (stopped : s.run = .terminated) : terminate s = s :=
  congrArg (fun r => { s with run := r }) stopped.symm

theorem toggleExecution_of_terminated (stopped : s.run = .terminated) : toggleExecution s = s := by
  unfold toggleExecution; rw [stopped]

/-- On a Terminated machine an operation other than reset reaches the keypad and the timers at most (R156). -/
theorem hostCall_of_terminated (stopped : s.run = .terminated) (noReset : op ≠ .reset)
    (call : hostCall op s = .next (t, r)) : ChangesOnly [.keypad, .delay, .sound] s t := by
  have same : ChangesOnly [.keypad, .delay, .sound] s s := (ChangesOnly.refl s).mono (List.nil_subset _)
  cases op with
  | reset => exact absurd rfl noReset
  | getState | getFramebuffer | isAudioPlaying => cases call; exact same
  | terminate => cases call; rw [terminate_of_terminated stopped]; exact same
  | toggleExecution => cases call; rw [toggleExecution_of_terminated stopped]; exact same
  | onTimer => cases call; exact (changesOnly_onTimer s).mono (by simp)
  | keyDown code | keyUp code =>
    obtain ⟨k, rfl⟩ := keyEvent_next call
    exact (changesOnly_setKey s k _).mono (by simp)
  | step =>
    rw [hostCall_step (.idle (by simp [stopped]))] at call
    cases call; exact same

theorem hostRun_cons_next {ops : List HostOp} (ran : hostRun (op :: ops) s = .next t) :
    ∃ u r, hostCall op s = .next (u, r) ∧ hostRun ops u = .next t := by
  unfold hostRun at ran
  split at ran
  · exact ⟨_, _, ‹_›, ran⟩
  · cases ran
  · cases ran

theorem hostRun_of_terminated {ops : List HostOp} (stopped : s.run = .terminated) (noReset : HostOp.reset ∉ ops)
    (ran : hostRun ops s = .next t) : ChangesOnly [.keypad, .delay, .sound] s t := by
  induction ops generalizing s with
  | nil => cases ran; exact (ChangesOnly.refl _).mono (List.nil_subset _)
  | cons op ops ih =>
    obtain ⟨notHead, notTail⟩ := not_or.1 (mt List.mem_cons.2 noReset)
    obtain ⟨u, r, call, rest⟩ := hostRun_cons_next ran
    have first := hostCall_of_terminated stopped (Ne.symm notHead) call
    have still : u.run = .terminated := (first .run (by simp)).trans stopped
    exact (first.trans (ih still notTail rest)).mono (by simp)

/-- Settles O50: the frame of the whole sequence is those three parts, so the execution state stays. -/
theorem terminatedUntilReset : Obligations.TerminatedUntilReset := by
  intro s t ops stopped noReset ran
  have frame := hostRun_of_terminated stopped noReset ran
  exact ⟨(frame .run (by simp)).trans stopped, fun p other => frame p fun listed => other p listed rfl⟩

end Sys2Proof.Machine
end

section
/-! SUPPORT. The checks of `construct`: the ROM's length first, then the font base (R147, R164, R172). -/

namespace Sys2Proof.Machine

variable {p : Params}

theorem romFits_iff : romFits p = true ↔ p.rom.length ≤ 3584 := decide_eq_true_iff

theorem fontBaseLegal_iff : fontBaseLegal p = true ↔ p.fontBase.toNat + 80 ≤ 0x200 := decide_eq_true_iff

theorem construct_of_long_rom (long : 3584 < p.rom.length) : construct p = .fault (.romTooBig p.rom.length) :=
  if_neg (mt romFits_iff.1 long.not_ge)

theorem construct_of_high_font (fits : p.rom.length ≤ 3584) (high : 0x200 < p.fontBase.toNat + 80) :
    construct p = .refused (.fontBaseOutOfRange p.fontBase) := by
  rw [construct, if_pos (romFits_iff.2 fits), if_neg (mt fontBaseLegal_iff.1 high.not_ge)]

theorem construct_of_legal (fits : p.rom.length ≤ 3584) (low : p.fontBase.toNat + 80 ≤ 0x200) :
    construct p = .next (State.initial p (initialRunState p.initialRun)) := by
  rw [construct, if_pos (romFits_iff.2 fits), if_pos (fontBaseLegal_iff.2 low)]

/-- Settles O53: the three ends of `construct` exclude each other, and only a long ROM ends in a fault. -/
theorem constructChecksItsInputs : Obligations.ConstructChecksItsInputs := by
  refine fun p => ⟨⟨construct_of_long_rom, fun failed => ?_⟩, construct_of_high_font, fun fits low =>
    ⟨_, construct_of_legal fits low, rfl⟩⟩
  by_contra short
  have fits : p.rom.length ≤ 3584 := Nat.le_of_not_lt short
  rcases Nat.lt_or_ge 0x200 (p.fontBase.toNat + 80) with high | low
  · rw [construct_of_high_font fits high] at failed; cases failed
  · rw [construct_of_legal fits low] at failed; cases failed

end Sys2Proof.Machine
end

section
/-! SUPPORT. The reset of a Machine (R167 to R171; log entry 4). -/

namespace Sys2Proof.Machine

/-- A reset differs from construction with the retained inputs in the execution state and the model's own records. -/
theorem changesOnly_initial_hostReset (s : State) (run : RunState) :
    ChangesOnly [.run, .draws, .history] (State.initial s.params run) (hostReset s) := by
  intro p kept
  cases p with
  | run | draws | history => exact absurd kept (by simp)
  | _ => rfl

/-- A reset reads the parameters and the model's own records alone, and keeps them. -/
theorem hostReset_hostReset (s : State) : hostReset (hostReset s) = hostReset s := rfl

/-- Settles O56: `construct` answers `State.initial` of the parameters that `reset` retains. -/
theorem resetRestoresTheConstructedState : Obligations.ResetRestoresTheConstructedState := by
  intro p s s0 built retained
  obtain ⟨-, rfl⟩ := construct_next built
  subst retained
  refine ⟨hostReset s, rfl, rfl, changesOnly_initial_hostReset s _, rfl, rfl, ?_⟩
  rw [hostCall, hostReset_hostReset]

end Sys2Proof.Machine
end
